-- ==== Sys2Proof/Word.lean ====
section
/-! DEFINITION. The widths of the block's words (00_scope.md R13, R15): unsigned, never sign-extended. -/

namespace Sys2Proof

/-- A byte: 8 bits (R13). -/
abbrev Byte := BitVec 8

/-- A CSR value, an index or a data field: 16 bits (R13, R67). -/
abbrev Half := BitVec 16

/-- A command or response word: 32 bits (R8, R13). -/
abbrev Word := BitVec 32

end Sys2Proof
end

