-- ==== Sys2Proof/Config.lean ====
section
/-! DEFINITION. What an implementation fixes: the two queue depths, which the spec leaves OPEN and a model
takes as arguments (00_scope.md R13, R14). They stand in State as plain data that no step writes, so
every statement is made for every value of both. -/

namespace Sys2Proof

/-- The parameters of the block (R13): the capacities, in bytes, of RXBUF and of TXQ. -/
structure Params where
  rxbufDepth : Nat
  txqDepth : Nat
  deriving DecidableEq, Repr

/-- The range R13 gives: 1 ≤ RXBUF_DEPTH ≤ 65535 and 6 ≤ TXQ_DEPTH ≤ 65535. -/
abbrev Params.InRange (p : Params) : Prop :=
  1 ≤ p.rxbufDepth ∧ p.rxbufDepth ≤ 65535 ∧ 6 ≤ p.txqDepth ∧ p.txqDepth ≤ 65535

/-- The depths of `State.reset`: 64 and 64. DESIGN CHOICE (unsafe, log entry 2): R13 leaves both open;
95_test_vectors.md section 0 uses these where a table does not say otherwise. -/
def Params.standard : Params := { rxbufDepth := 64, txqDepth := 64 }

end Sys2Proof
end

