-- ==== Sys2Proof/Machine/State.lean ====
section
/-! DEFINITION. The state of the block (10_state.md R22), its reset (R45), and what stops a step: nothing. -/

namespace Sys2Proof.Machine

/-- The error scheme, CTRL bit 0 (R25). -/
inductive Scheme where
  | parity | crc
  deriving DecidableEq, Repr

/-- Where the code byte sits, CTRL bit 1 (R25). -/
inductive CodePos where
  | beforeStop | afterStop
  deriving DecidableEq, Repr

/-- The decoder's persistent state (R39): SEEKING_START or ACCUMULATING. -/
inductive DState where
  | seek | acc
  deriving DecidableEq, Repr

/-- The status codes of a response (30_encoding.md R75). Codes 0x7 to 0xF are never produced. -/
inductive Status where
  | ok | illegal | ecfg | efull | eempty | erange | ebadcfg
  deriving DecidableEq, Repr

/-- One input of the host (00_scope.md R8): a command word on `cmd`, or a pulse on `rst`. -/
inductive HostInput where
  | command (w : Word)
  | rst
  deriving DecidableEq, Repr

/-- The nine RW configuration registers, each at the width R23 gives it: a write keeps those bits and
discards the others (R24). DEDUCED (log entry 5): of CTRL's 16 bits only the two used ones are storage. -/
structure Cfg where
  ctrl : BitVec 2
  start : Byte
  stop : Byte
  esc : Byte
  evenmk : Byte
  oddmk : Byte
  gen : BitVec 9
  deg : BitVec 4
  fmax : Half
  deriving DecidableEq, Repr

/-- The whole state: the elements of R22, the parameters of R13, and the block's ports (R8).
`cmd` and `resp` are the model's own fields (DESIGN CHOICE, log entry 1): the inputs of the host not
yet taken, and the response words emitted, each oldest first. -/
structure State where
  params : Params
  cfg : Cfg
  cfgValid : Bool
  cfgErr : BitVec 4
  engcrc : Byte
  engpar : Bool
  txinf : Bool
  txcnt : Half
  txcrc : Byte
  txpar : Bool
  txq : List Byte
  rxbuf : List Byte
  dstate : DState
  rxpay : List Byte
  lastout : BitVec 2
  resync : Half
  damaged : Half
  cmd : List HostInput
  resp : List Word
  deriving DecidableEq, Repr

/-- Why the machine would stop with a fault. It has no constructor: "No behaviour of this spec is
`fault`: every command word, in every state, has a defined response and next state"
(93_implementation_defined.md part 2). -/
inductive Fault where
  deriving DecidableEq, Repr

/-- Why a command would be refused by the model. -/
inductive Refusal where
  /-- Raised by no arm of `exec` now: kept by the host's interface for an instruction without a
  meaning. Safe: the model stops and proves nothing about what follows. -/
  | notModelled (mnemonic : String)
  deriving DecidableEq, Repr

/-- What a meaning answers. -/
abbrev Result := Host.Outcome State Fault Refusal

/-- Every configuration register at its reset value (R45). -/
def Cfg.reset : Cfg :=
  { ctrl := 0, start := 0, stop := 0, esc := 0, evenmk := 0, oddmk := 0, gen := 0, deg := 0, fmax := 0 }

/-- The state after the `rst` input of a block with the given parameters (R45, R156): every element at
the value R45 lists, nothing pending on `cmd`, nothing emitted on `resp`. -/
def State.resetOf (p : Params) : State :=
  { params := p, cfg := Cfg.reset, cfgValid := false, cfgErr := 0
    engcrc := 0, engpar := false
    txinf := false, txcnt := 0, txcrc := 0, txpar := false
    txq := [], rxbuf := [], dstate := .seek, rxpay := [], lastout := 0
    resync := 0, damaged := 0
    cmd := [], resp := [] }

/-- The state after reset, with the parameters of log entry 2. -/
def State.reset : State := State.resetOf Params.standard

end Sys2Proof.Machine
end

