-- ==== Sys2Proof/Machine/Ops.lean ====
section
/-! DEFINITION. The named operations every meaning is written with: the response (30_encoding.md R74), an
error (00_scope.md R17; the block has no trap, 60_exceptions.md R147, so this is all an error does), the
queues (R17), and the clears (10_state.md R45, R46). -/

namespace Sys2Proof.Machine

/-- The status codes of R75. -/
def Status.code : Status → BitVec 4
  | .ok => 0x0#4
  | .illegal => 0x1#4
  | .ecfg => 0x2#4
  | .efull => 0x3#4
  | .eempty => 0x4#4
  | .erange => 0x5#4
  | .ebadcfg => 0x6#4

/-- The response word (R74): ST << 28 | X << 16 | V, so bits 27:24 are zero. -/
def respWord (st : Status) (x : Byte) (v : Half) : Word :=
  st.code.setWidth 32 <<< 28 ||| x.setWidth 32 <<< 16 ||| v.setWidth 32

/-- A response word appears on `resp`, after those before it (R59). -/
def State.emit (s : State) (r : Word) : State := { s with resp := s.resp ++ [r] }

/-- The inputs still pending after the block took one. -/
def State.setCmd (s : State) (rest : List HostInput) : State := { s with cmd := rest }

/-- `respond(ST, X, V)` of R17: the command ends. -/
def State.respond (s : State) (st : Status) (x : Byte) (v : Half) : Result := .next (s.emit (respWord st x v))

/-- `raise <Status>` of R17: the command ends with an error, and nothing has been written. -/
def State.raise (s : State) (st : Status) : Result := s.respond st 0 0

/-- The guard of every command that computes with the configuration (60_exceptions.md R144): ECFG while
CFG_VALID = 0. -/
def State.needValid (s : State) (meaning : Result) : Result := if s.cfgValid then meaning else s.raise .ecfg

/-- A configuration register changed, so the configuration is no longer in force (40_control.md R82). -/
def State.setCfg (s : State) (c : Cfg) : State := { s with cfg := c, cfgValid := false }

/-- The verdict of a CFG_COMMIT (40_control.md R87). -/
def State.setVerdict (s : State) (valid : Bool) (err : BitVec 4) : State :=
  { s with cfgValid := valid, cfgErr := err }

/-- The stand-alone engine's accumulators (R35). -/
def State.setEng (s : State) (crc : Byte) (par : Bool) : State := { s with engcrc := crc, engpar := par }

/-- The framer's running state (R36). -/
def State.setTx (s : State) (inf : Bool) (cnt : Half) (crc : Byte) (par : Bool) : State :=
  { s with txinf := inf, txcnt := cnt, txcrc := crc, txpar := par }

/-- The wire-output queue (R37). -/
def State.setTxq (s : State) (q : List Byte) : State := { s with txq := q }

/-- The receive buffer and the decoder's state (R38, R39). -/
def State.setRx (s : State) (ds : DState) (buf : List Byte) : State := { s with dstate := ds, rxbuf := buf }

/-- What the last decode attempt left to read (R40, R41). -/
def State.setOutcome (s : State) (pay : List Byte) (out : BitVec 2) : State :=
  { s with rxpay := pay, lastout := out }

/-- The two event counters (R33). -/
def State.setCounters (s : State) (resync damaged : Half) : State :=
  { s with resync := resync, damaged := damaged }

/-- Free(TXQ) of R17: the capacity minus the length. -/
def State.txFree (s : State) : Nat := s.params.txqDepth - s.txq.length

/-- Push(TXQ, out) of R17: append at the tail. -/
def State.pushTxq (s : State) (out : List Byte) : State := s.setTxq (s.txq ++ out)

/-- ClearDatapath of R46. -/
def State.clearDatapath (s : State) : State :=
  { s with
    engcrc := 0, engpar := false
    txinf := false, txcnt := 0, txcrc := 0, txpar := false
    txq := [], rxbuf := [], dstate := .seek, rxpay := [], lastout := 0
    resync := 0, damaged := 0 }

/-- The effect of the `rst` input, and of SOFT_RESET before its response (70_reset_and_hazards.md R156,
40_control.md R89): every element to its value of R45. The parameters are no element, and what already
passed over the ports stays passed. -/
def State.resetBlock (s : State) : State :=
  { State.resetOf s.params with cmd := s.cmd, resp := s.resp }

end Sys2Proof.Machine
end

