-- ==== Sys2Proof/Machine/Operands.lean ====
section
/-! DEFINITION. The operands of CFG_WR and CSR_RD: the configuration registers by number, their widths, and
the fields other commands read from them (10_state.md R23 to R30, R90). -/

namespace Sys2Proof.Machine

/-- The nine RW registers (R23). -/
inductive CfgReg where
  | ctrl | start | stop | esc | evenmk | oddmk | gen | deg | fmax
  deriving DecidableEq, Repr

/-- The number of an RW register (R23). -/
def CfgReg.number : CfgReg → Byte
  | .ctrl => 0x00#8
  | .start => 0x01#8
  | .stop => 0x02#8
  | .esc => 0x03#8
  | .evenmk => 0x04#8
  | .oddmk => 0x05#8
  | .gen => 0x06#8
  | .deg => 0x07#8
  | .fmax => 0x08#8

def CfgReg.all : List CfgReg := [.ctrl, .start, .stop, .esc, .evenmk, .oddmk, .gen, .deg, .fmax]

/-- The RW register a number names, if it names one (R23, R83). -/
def CfgReg.ofNumber (a : Byte) : Option CfgReg := CfgReg.all.find? (fun r => r.number == a)

/-- A write stores the register's own low bits of the value and discards the others (R24). -/
def Cfg.write (c : Cfg) (r : CfgReg) (d : Half) : Cfg :=
  match r with
  | .ctrl => { c with ctrl := d.setWidth 2 }
  | .start => { c with start := d.setWidth 8 }
  | .stop => { c with stop := d.setWidth 8 }
  | .esc => { c with esc := d.setWidth 8 }
  | .evenmk => { c with evenmk := d.setWidth 8 }
  | .oddmk => { c with oddmk := d.setWidth 8 }
  | .gen => { c with gen := d.setWidth 9 }
  | .deg => { c with deg := d.setWidth 4 }
  | .fmax => { c with fmax := d }

/-- A read returns the stored bits, zero-extended to 16 (R24). -/
def Cfg.read (c : Cfg) (r : CfgReg) : Half :=
  match r with
  | .ctrl => c.ctrl.setWidth 16
  | .start => c.start.setWidth 16
  | .stop => c.stop.setWidth 16
  | .esc => c.esc.setWidth 16
  | .evenmk => c.evenmk.setWidth 16
  | .oddmk => c.oddmk.setWidth 16
  | .gen => c.gen.setWidth 16
  | .deg => c.deg.setWidth 16
  | .fmax => c.fmax

/-- CTRL.SCHEME, bit 0: 0 is Parity, 1 is CRC (R25). -/
def Cfg.scheme (c : Cfg) : Scheme := if c.ctrl[0] then .crc else .parity

/-- CTRL.CODEPOS, bit 1: 0 is before-stop, 1 is after-stop (R25). -/
def Cfg.codePos (c : Cfg) : CodePos := if c.ctrl[1] then .afterStop else .beforeStop

/-- The byte is START, STOP or ESC (R26). -/
def Cfg.isDelimiter (c : Cfg) (b : Byte) : Bool := b == c.start || b == c.stop || b == c.esc

/-- The byte is in Reserved() (41_codec.md R90): a delimiter or, in the Parity scheme, a marker. -/
def Cfg.isReserved (c : Cfg) (b : Byte) : Bool :=
  match c.scheme with
  | .crc => c.isDelimiter b
  | .parity => c.isDelimiter b || b == c.evenmk || b == c.oddmk

end Sys2Proof.Machine
end

