-- ==== Sys2Proof/Machine/Flags.lean ====
section
/-! DEFINITION. The read-only CSRs: STATUS, which holds the block's only flags (10_state.md R31, R42), the
levels and counts (R32, R33), the accumulators (R34); and the value of any CSR (40_control.md R84). -/

namespace Sys2Proof.Machine

/-- The nine read-only registers (R23). -/
inductive View where
  | status | rxLevel | rxPlen | txLevel | txCount | resyncCnt | damagedCnt | engAcc | txAcc
  deriving DecidableEq, Repr

/-- The number of a read-only register (R23). -/
def View.number : View → Byte
  | .status => 0x10#8
  | .rxLevel => 0x11#8
  | .rxPlen => 0x12#8
  | .txLevel => 0x13#8
  | .txCount => 0x14#8
  | .resyncCnt => 0x15#8
  | .damagedCnt => 0x16#8
  | .engAcc => 0x17#8
  | .txAcc => 0x18#8

def View.all : List View :=
  [.status, .rxLevel, .rxPlen, .txLevel, .txCount, .resyncCnt, .damagedCnt, .engAcc, .txAcc]

/-- The read-only register a number names, if it names one (R23). -/
def View.ofNumber (a : Byte) : Option View := View.all.find? (fun v => v.number == a)

/-- DSTATE as STATUS bit 1 (R31): 0 is SEEK, 1 is ACC. -/
def DState.bit : DState → BitVec 1
  | .seek => 0#1
  | .acc => 1#1

/-- STATUS (R31): CFG_ERR in 11:8, LAST_OUTCOME in 5:4, TX_INFRAME in 2, DSTATE in 1, CFG_VALID in 0,
zero elsewhere. -/
def State.status (s : State) : Half :=
  s.cfgErr.setWidth 16 <<< 8 ||| s.lastout.setWidth 16 <<< 4 ||| (BitVec.ofBool s.txinf).setWidth 16 <<< 2
    ||| s.dstate.bit.setWidth 16 <<< 1 ||| (BitVec.ofBool s.cfgValid).setWidth 16

/-- The layout of ENG_ACC and TX_ACC (R34): the parity in bit 8, the CRC remainder in bits 7:0. -/
def accView (par : Bool) (crc : Byte) : Half := (BitVec.ofBool par).setWidth 16 <<< 8 ||| crc.setWidth 16

/-- The value of a read-only register (R31 to R34). A length is a 16-bit value; the bounds of R13 make
every length of a reachable state fit. -/
def State.view (s : State) : View → Half
  | .status => s.status
  | .rxLevel => BitVec.ofNat 16 s.rxbuf.length
  | .rxPlen => BitVec.ofNat 16 s.rxpay.length
  | .txLevel => BitVec.ofNat 16 s.txq.length
  | .txCount => s.txcnt
  | .resyncCnt => s.resync
  | .damagedCnt => s.damaged
  | .engAcc => accView s.engpar s.engcrc
  | .txAcc => accView s.txpar s.txcrc

/-- CsrValue(A) of R84; `none` when the number is unassigned (R85). -/
def State.csrValue (s : State) (a : Byte) : Option Half :=
  match CfgReg.ofNumber a with
  | some r => some (s.cfg.read r)
  | none => (View.ofNumber a).map s.view

end Sys2Proof.Machine
end

