-- ==== Sys2Proof/Machine/Control.lean ====
section
/-! DEFINITION. The control and configuration commands (40_control.md): NOP, CFG_WR, CSR_RD, CFG_COMMIT,
SOFT_RESET, and the checks of a configuration (R86). -/

namespace Sys2Proof.Machine

/-- Check 1 of R86: two of the three delimiters are equal. -/
def Cfg.delimitersClash (c : Cfg) : Bool := c.start == c.stop || c.start == c.esc || c.stop == c.esc

/-- Check 5 of R86: the degree is not in 1..8. -/
def Cfg.degreeOutOfRange (c : Cfg) : Bool := decide (c.deg.toNat < 1) || decide (8 < c.deg.toNat)

/-- Check 6 of R86: GEN[DEG] = 0, or GEN >> (DEG + 1) ≠ 0. -/
def Cfg.degreeMismatch (c : Cfg) : Bool :=
  !c.gen.getLsbD c.deg.toNat || c.gen >>> (c.deg.toNat + 1) != 0

/-- FirstFailedCheck() of R86: the number of the first check that holds, 0 when none does. -/
def Cfg.firstFailedCheck (c : Cfg) : BitVec 4 :=
  if c.delimitersClash then 1
  else if c.fmax = 0 then 2
  else
    match c.scheme with
    | .parity =>
      if c.evenmk = c.oddmk then 3
      else if c.isDelimiter c.evenmk || c.isDelimiter c.oddmk then 4
      else 0
    | .crc =>
      if c.degreeOutOfRange then 5
      else if c.degreeMismatch then 6
      else if c.gen[0] = false then 7
      else 0

/-- NOP (R81). -/
def execNop (s : State) : Result := s.respond .ok 0 0

/-- CFG_WR (R82); ERANGE when A names no RW register (R83). -/
def execCfgWr (a : Byte) (d : Half) (s : State) : Result :=
  match CfgReg.ofNumber a with
  | none => s.raise .erange
  | some r => (s.setCfg (s.cfg.write r d)).respond .ok 0 0

/-- CSR_RD (R84); ERANGE when A is unassigned (R85). -/
def execCsrRd (a : Byte) (s : State) : Result :=
  match s.csrValue a with
  | none => s.raise .erange
  | some v => s.respond .ok 0 v

/-- CFG_COMMIT (R87, R88): the datapath is cleared whatever the checks say. -/
def execCfgCommit (s : State) : Result :=
  let k := s.cfg.firstFailedCheck
  if k = 0 then (s.clearDatapath.setVerdict true 0).respond .ok 0 0
  else (s.clearDatapath.setVerdict false k).respond .ebadcfg (k.setWidth 8) 0

/-- SOFT_RESET (R89). -/
def execSoftReset (s : State) : Result := s.resetBlock.respond .ok 0 0

end Sys2Proof.Machine
end

