-- ==== Sys2Proof/Machine/Codec.lean ====
section
/-! DEFINITION. The Escaping Codec (41_codec.md): Stuff and the command STUFF. -/

namespace Sys2Proof.Machine

/-- Stuff(b) of R91. -/
def Cfg.stuff (c : Cfg) (b : Byte) : List Byte := if c.isReserved b then [c.esc, b] else [b]

/-- concatMap(Stuff, P) of R94. -/
def Cfg.stuffAll (c : Cfg) (p : List Byte) : List Byte := p.flatMap c.stuff

/-- The response of STUFF (R76, R93): X counts the output bytes, V[7:0] holds the first and V[15:8] the
second. -/
def stuffResponse (s : State) : List Byte → Result
  | [b0] => s.respond .ok 1 (b0.setWidth 16)
  | [b0, b1] => s.respond .ok 2 (b1.setWidth 16 <<< 8 ||| b0.setWidth 16)
  | _ => s.respond .ok 0 0

/-- STUFF (R93). -/
def execStuff (b : Byte) (s : State) : Result := s.needValid (stuffResponse s (s.cfg.stuff b))

end Sys2Proof.Machine
end

