-- ==== Sys2Proof/Machine/Engine.lean ====
section
/-! DEFINITION. The Error-Code Engine (42_error_engine.md): parity, CRC, the scheme's code and its check, and
the stand-alone engine's commands ENG_CLR, ENG_BYTE, ENG_COMPUTE, ENG_VERIFY. -/

namespace Sys2Proof.Machine

/-- popcount(b) of 00_scope.md R15: the number of one bits of b. -/
def popcount (b : Byte) : Nat := ([0, 1, 2, 3, 4, 5, 6, 7].filter (fun i => b.getLsbD i)).length

/-- popcount(b) mod 2, as the bit the running parity is XORed with (R109, R118). -/
def oddOnes (b : Byte) : Bool := popcount b % 2 == 1

/-- ParityBit(P) of R97: the total of one bits, modulo 2. -/
def parityBit (p : List Byte) : Bool := (p.map popcount).sum % 2 == 1

/-- The marker of a parity bit: EVENMK for 0, ODDMK for 1 (R98). -/
def Cfg.marker (c : Cfg) (par : Bool) : Byte := if par then c.oddmk else c.evenmk

/-- ParityCode(P) of R98. -/
def Cfg.parityCode (c : Cfg) (p : List Byte) : Byte := c.marker (parityBit p)

/-- CrcStep(r, bit) of R101: shift the bit in, subtract G where the x^d coefficient is one, keep d bits.
DESIGN CHOICE (log entry 7): total for every DEG, though only 1..8 is ever in force. -/
def Cfg.crcStep (c : Cfg) (r : Byte) (bit : Bool) : Byte :=
  let t : BitVec 9 := r.concat bit
  let u : BitVec 9 := if t.getLsbD c.deg.toNat then t ^^^ c.gen else t
  u.setWidth 8 &&& BitVec.ofNat 8 (2 ^ c.deg.toNat - 1)

/-- CrcByte(r, b) of R101: the bits of b from 7 down to 0 (20_memory.md R50). -/
def Cfg.crcByte (c : Cfg) (r b : Byte) : Byte :=
  [7, 6, 5, 4, 3, 2, 1, 0].foldl (fun r i => c.crcStep r (b.getLsbD i)) r

/-- CrcAbsorb(P) of R101. -/
def Cfg.crcAbsorb (c : Cfg) (p : List Byte) : Byte := p.foldl c.crcByte 0

/-- CrcFinal(r) of R101: the d appended zeros. -/
def Cfg.crcFinal (c : Cfg) (r : Byte) : Byte := (List.replicate c.deg.toNat false).foldl c.crcStep r

/-- CrcRem(P) of R101; as a byte it is CrcCode(P) of R102, the remainder zero-extended. -/
def Cfg.crcCode (c : Cfg) (p : List Byte) : Byte := c.crcFinal (c.crcAbsorb p)

/-- CodeOf(P) of R104. -/
def Cfg.codeOf (c : Cfg) (p : List Byte) : Byte :=
  match c.scheme with
  | .crc => c.crcCode p
  | .parity => c.parityCode p

/-- Verify(P, code) of R104: the whole received byte equals the recomputed code (R99, R103). -/
def Cfg.verify (c : Cfg) (p : List Byte) (code : Byte) : Bool := code == c.codeOf p

/-- The code of a running remainder and parity (R110, R117): the d zeros go into a copy. -/
def Cfg.runningCode (c : Cfg) (crc : Byte) (par : Bool) : Byte :=
  match c.scheme with
  | .crc => c.crcFinal crc
  | .parity => c.marker par

/-- The running remainder after one more byte: it moves in the CRC scheme only (R109, R118, D33). -/
def Cfg.runningCrc (c : Cfg) (crc b : Byte) : Byte :=
  match c.scheme with
  | .crc => c.crcByte crc b
  | .parity => crc

/-- ENG_CLR (R108). -/
def execEngClr (s : State) : Result := s.needValid ((s.setEng 0 false).respond .ok 0 0)

/-- ENG_BYTE (R109). -/
def execEngByte (b : Byte) (s : State) : Result :=
  s.needValid ((s.setEng (s.cfg.runningCrc s.engcrc b) (s.engpar ^^ oddOnes b)).respond .ok 0 0)

/-- ENG_COMPUTE (R110). -/
def execEngCompute (s : State) : Result :=
  s.needValid (s.respond .ok 0 ((s.cfg.runningCode s.engcrc s.engpar).setWidth 16))

/-- ENG_VERIFY (R111). -/
def execEngVerify (b : Byte) (s : State) : Result :=
  s.needValid (s.respond .ok 0 (if b = s.cfg.runningCode s.engcrc s.engpar then 1 else 0))

end Sys2Proof.Machine
end

