-- ==== Sys2Proof/Machine/Framer.lean ====
section
/-! DEFINITION. The Frame Encoder (43_framer.md): the wire format as the source defines it (R112 to R116), and
the commands that make it byte by byte, TX_BYTE, TX_END, TX_POP (R117 to R121). -/

namespace Sys2Proof.Machine

/-- Slices of F bytes, at most `fuel` of them. -/
def chunksFuel (f : Nat) : Nat → List Byte → List (List Byte)
  | 0, _ => []
  | _ + 1, [] => []
  | fuel + 1, b :: p => (b :: p).take f :: chunksFuel f fuel ((b :: p).drop f)

/-- Chunks(P) of R112: consecutive slices of F bytes, the last one holding what remains. -/
def chunks (f : Nat) (p : List Byte) : List (List Byte) := chunksFuel f p.length p

/-- CodeBytes(C) of R113: a CRC code that equals a delimiter is escaped when it stands before STOP. -/
def Cfg.codeBytes (c : Cfg) (code : Byte) : List Byte :=
  if c.codePos = .beforeStop ∧ c.scheme = .crc ∧ c.isDelimiter code then [c.esc, code] else [code]

/-- Trailer(C) of R114, for the chunk's code. -/
def Cfg.trailerOf (c : Cfg) (code : Byte) : List Byte :=
  match c.codePos with
  | .beforeStop => c.codeBytes code ++ [c.stop]
  | .afterStop => [c.stop, code]

/-- FrameBytes(C) of R115. -/
def Cfg.frameBytes (c : Cfg) (p : List Byte) : List Byte :=
  [c.start] ++ c.stuffAll p ++ c.trailerOf (c.codeOf p)

/-- Encode(P) of R116. -/
def Cfg.encodePayload (c : Cfg) (p : List Byte) : List Byte := (chunks c.fmax.toNat p).flatMap c.frameBytes

/-- CloseBytes() of R117, on a running remainder and parity. -/
def Cfg.closeBytes (c : Cfg) (crc : Byte) (par : Bool) : List Byte :=
  let code := c.runningCode crc par
  match c.codePos with
  | .afterStop => [c.stop, code]
  | .beforeStop => if c.scheme = .crc ∧ c.isDelimiter code then [c.esc, code, c.stop] else [code, c.stop]

/-- The end of TX_BYTE and TX_END (R118, R120): push every byte and store the framer's state, or EFULL
with nothing written. X is the number of bytes pushed. -/
def State.sendBytes (s : State) (out : List Byte) (inf : Bool) (cnt : Half) (crc : Byte) (par : Bool) : Result :=
  if out.length > s.txFree then s.raise .efull
  else ((s.pushTxq out).setTx inf cnt crc par).respond .ok (BitVec.ofNat 8 out.length) 0

/-- TX_BYTE (R118). A new frame starts from START and cleared running state; the frame closes on the
byte that brings the count to F. -/
def execTxByte (b : Byte) (s : State) : Result :=
  s.needValid <|
    let out := (if s.txinf then [] else [s.cfg.start]) ++ s.cfg.stuff b
    let par := (if s.txinf then s.txpar else false) ^^ oddOnes b
    let crc := s.cfg.runningCrc (if s.txinf then s.txcrc else 0) b
    let cnt := (if s.txinf then s.txcnt else 0) + 1
    if cnt = s.cfg.fmax then s.sendBytes (out ++ s.cfg.closeBytes crc par) false 0 0 false
    else s.sendBytes out true cnt crc par

/-- TX_END (R120): no effect when no frame is open. -/
def execTxEnd (s : State) : Result :=
  s.needValid <|
    if s.txinf then s.sendBytes (s.cfg.closeBytes s.txcrc s.txpar) false 0 0 false
    else s.respond .ok 0 0

/-- TX_POP (R121): it needs no valid configuration. -/
def execTxPop (s : State) : Result :=
  match s.txq with
  | [] => s.raise .eempty
  | b :: rest => (s.setTxq rest).respond .ok 0 (b.setWidth 16)

end Sys2Proof.Machine
end

