-- ==== Sys2Proof/Machine/Deframer.lean ====
section
/-! DEFINITION. The Frame Decoder and buffer scanner (44_deframer.md): Scan (R125) and the commands RX_FEED,
RX_EXTRACT, RX_PRD, RX_FLUSH. -/

namespace Sys2Proof.Machine

/-- The outcome of one decode attempt (R124). -/
inductive RxOutcome where
  | frame | incomplete | damaged
  deriving DecidableEq, Repr

/-- What Scan returns (R125): the outcome, the payload, the new decoder state and buffer, and how many
resynchronizations it performed. -/
structure Attempt where
  outcome : RxOutcome
  payload : List Byte
  dstate : DState
  buf : List Byte
  resyncs : Nat
  deriving DecidableEq, Repr

/-- The outcome codes of R124. -/
def RxOutcome.code : RxOutcome → BitVec 2
  | .frame => 1#2
  | .incomplete => 2#2
  | .damaged => 3#2

/-- A closed frame is verified, and the decoder seeks again either way (R131). -/
def verdict (c : Cfg) (pay : List Byte) (code : Byte) (rest : List Byte) (n : Nat) : Attempt :=
  if c.verify pay code then ⟨.frame, pay, .seek, rest, n⟩ else ⟨.damaged, [], .seek, rest, n⟩

/-- An unescaped STOP (R129, R130): `acc` is what was accumulated, `entry` the buffer to keep when the
code byte has not arrived, `rest` the bytes after STOP. -/
def closeFrame (c : Cfg) (acc entry : List Byte) (n : Nat) (rest : List Byte) : Attempt :=
  match c.codePos with
  | .beforeStop =>
    match acc.getLast? with
    | none => ⟨.damaged, [], .seek, rest, n⟩
    | some code => verdict c acc.dropLast code rest n
  | .afterStop =>
    match rest with
    | [] => ⟨.incomplete, [], .acc, entry, n⟩
    | code :: rest' => verdict c acc code rest' n

/-- The loop of R125 in state ACC, on the bytes not yet looked at. `acc` holds the bytes accumulated,
`entry` the buffer as it was when the current frame's START was consumed (`buf` of R125; the index i
stands where the last argument begins), `n` the resynchronizations so far (R127, R128).
DEDUCED (log entry 6): recursion on the rest of the buffer is R125's loop over i. -/
def scanAcc (c : Cfg) (acc entry : List Byte) (n : Nat) : List Byte → Attempt
  | [] => ⟨.incomplete, [], .acc, entry, n⟩
  | b :: rest =>
    if b = c.esc then
      match rest with
      | [] => ⟨.incomplete, [], .acc, entry, n⟩
      | x :: rest' => scanAcc c (acc ++ [x]) entry n rest'
    else if b = c.start then scanAcc c [] rest (n + 1) rest
    else if b = c.stop then closeFrame c acc entry n rest
    else scanAcc c (acc ++ [b]) entry n rest

/-- Scan(ds, buf) of R125; in SEEK, the bytes before the first START are discarded (R126). -/
def scan (c : Cfg) (ds : DState) (buf : List Byte) : Attempt :=
  match ds with
  | .acc => scanAcc c [] buf 0 buf
  | .seek =>
    match buf.dropWhile (fun b => b != c.start) with
    | [] => ⟨.incomplete, [], .seek, [], 0⟩
    | _ :: rest => scanAcc c [] rest 0 rest

/-- RX_FEED (R134). -/
def execRxFeed (b : Byte) (s : State) : Result :=
  s.needValid <|
    if s.rxbuf.length = s.params.rxbufDepth then s.raise .efull
    else (s.setRx s.dstate (s.rxbuf ++ [b])).respond .ok 0 0

/-- The state after a decode attempt (R135). -/
def State.afterAttempt (s : State) (a : Attempt) : State :=
  ((s.setRx a.dstate a.buf).setOutcome
      (if a.outcome = .frame then a.payload else []) a.outcome.code).setCounters
    (s.resync + BitVec.ofNat 16 a.resyncs)
    (if a.outcome = .damaged then s.damaged + 1 else s.damaged)

/-- RX_EXTRACT (R135): every outcome responds OK. -/
def execRxExtract (s : State) : Result :=
  s.needValid <|
    let a := scan s.cfg s.dstate s.rxbuf
    (s.afterAttempt a).respond .ok (a.outcome.code.setWidth 8)
      (if a.outcome = .frame then BitVec.ofNat 16 a.payload.length else 0)

/-- RX_PRD (R136): it needs no valid configuration. -/
def execRxPrd (d : Half) (s : State) : Result :=
  match s.rxpay[d.toNat]? with
  | none => s.raise .erange
  | some b => s.respond .ok 0 (b.setWidth 16)

/-- RX_FLUSH (R137): it needs no valid configuration. -/
def execRxFlush (s : State) : Result := ((s.setRx .seek []).setOutcome [] 0).respond .ok 0 0

end Sys2Proof.Machine
end

