-- ==== Sys2Proof/Syntax.lean ====
section
/-! DEFINITION. The commands of the block (30_encoding.md R71), and the assembler notation of R77 and R79. -/

namespace Sys2Proof

/-- The seventeen mnemonics of R71, in the table's order. -/
inductive Op where
  | nop | cfgWr | csrRd | cfgCommit | softReset
  | stuff
  | engClr | engByte | engCompute | engVerify
  | txByte | txEnd | txPop
  | rxFeed | rxExtract | rxPrd | rxFlush
  deriving DecidableEq, Repr

/-- The five formats of R68: no operand, one byte, a CSR number, a CSR number and data, an index. -/
inductive Format where
  | none | byte | csr | csrData | index
  deriving DecidableEq, Repr

/-- A command with its operands (R67, R70). Operands are unsigned fields of the word, held at the
width the format gives them; no command names a register (R20). -/
inductive Instr where
  | nop
  | cfgWr (a : Byte) (d : Half)
  | csrRd (a : Byte)
  | cfgCommit
  | softReset
  | stuff (b : Byte)
  | engClr
  | engByte (b : Byte)
  | engCompute
  | engVerify (b : Byte)
  | txByte (b : Byte)
  | txEnd
  | txPop
  | rxFeed (b : Byte)
  | rxExtract
  | rxPrd (d : Half)
  | rxFlush
  deriving DecidableEq, Repr

/-- One line of assembly (R77): a mnemonic and its operands, as the numbers the line holds, of any
size. `AsmLine.wellFormed` says which lines are legal. -/
structure AsmLine where
  op : Op
  args : List Nat
  deriving DecidableEq, Repr

/-- The pseudo-instructions of R79, with the numbers of the line that names them. -/
inductive Pseudo where
  | send (bytes : List Nat)
  | feed (bytes : List Nat)
  | checksum (bytes : List Nat)
  | configParity (start stop esc evenmk oddmk fmax pos : Nat)
  | configCrc (start stop esc gen deg fmax pos : Nat)
  deriving DecidableEq, Repr

end Sys2Proof
end

