-- ==== Sys2Proof/Machine/Dispatch.lean ====
section
/-! DEFINITION. One arm per command (30_encoding.md R71), each a call of its meaning. -/

namespace Sys2Proof.Machine

def exec (i : Instr) (s : State) : Host.Outcome State Fault Refusal :=
  match i with
  | .nop => Sys2Proof.Machine.execNop s
  | .cfgWr a d => Sys2Proof.Machine.execCfgWr a d s
  | .csrRd a => Sys2Proof.Machine.execCsrRd a s
  | .cfgCommit => Sys2Proof.Machine.execCfgCommit s
  | .softReset => Sys2Proof.Machine.execSoftReset s
  | .stuff b => Sys2Proof.Machine.execStuff b s
  | .engClr => Sys2Proof.Machine.execEngClr s
  | .engByte b => Sys2Proof.Machine.execEngByte b s
  | .engCompute => Sys2Proof.Machine.execEngCompute s
  | .engVerify b => Sys2Proof.Machine.execEngVerify b s
  | .txByte b => Sys2Proof.Machine.execTxByte b s
  | .txEnd => Sys2Proof.Machine.execTxEnd s
  | .txPop => Sys2Proof.Machine.execTxPop s
  | .rxFeed b => Sys2Proof.Machine.execRxFeed b s
  | .rxExtract => Sys2Proof.Machine.execRxExtract s
  | .rxPrd d => Sys2Proof.Machine.execRxPrd d s
  | .rxFlush => Sys2Proof.Machine.execRxFlush s

end Sys2Proof.Machine
end

