-- ==== Sys2Proof/WellFormed.lean ====
section
/-! DEFINITION. Which assembly lines are legal (30_encoding.md R68, R77), and that a command is well
formed when the line that writes it is. A command's operands stand at the width of their field, so
every command of `Instr` is well formed; the check bites on lines, whose numbers have any size. -/

namespace Sys2Proof

/-- The format of each mnemonic (R71). -/
def Op.format : Op → Format
  | .nop | .cfgCommit | .softReset | .engClr | .engCompute | .txEnd | .txPop | .rxExtract | .rxFlush => .none
  | .stuff | .engByte | .engVerify | .txByte | .rxFeed => .byte
  | .csrRd => .csr
  | .cfgWr => .csrData
  | .rxPrd => .index

/-- The operand list of a format, each operand in its range (R77): "An operand out of range (an imm8
above 255, an imm16 above 65535, a csr above 255) is an assembly error, never a truncation." -/
def Format.admits : Format → List Nat → Bool
  | .none, [] => true
  | .byte, [b] => decide (b ≤ 255)
  | .csr, [a] => decide (a ≤ 255)
  | .csrData, [a, d] => decide (a ≤ 255) && decide (d ≤ 65535)
  | .index, [d] => decide (d ≤ 65535)
  | _, _ => false

/-- A line is legal when its operands are those of its mnemonic's format, each in range (R77). -/
def AsmLine.wellFormed (l : AsmLine) : Bool := l.op.format.admits l.args

/-- The mnemonic of a command. -/
def Instr.op : Instr → Op
  | .nop => .nop
  | .cfgWr _ _ => .cfgWr
  | .csrRd _ => .csrRd
  | .cfgCommit => .cfgCommit
  | .softReset => .softReset
  | .stuff _ => .stuff
  | .engClr => .engClr
  | .engByte _ => .engByte
  | .engCompute => .engCompute
  | .engVerify _ => .engVerify
  | .txByte _ => .txByte
  | .txEnd => .txEnd
  | .txPop => .txPop
  | .rxFeed _ => .rxFeed
  | .rxExtract => .rxExtract
  | .rxPrd _ => .rxPrd
  | .rxFlush => .rxFlush

/-- The numbers of a command's operands, in the order of the line (R77). -/
def Instr.args : Instr → List Nat
  | .cfgWr a d => [a.toNat, d.toNat]
  | .csrRd a => [a.toNat]
  | .stuff b | .engByte b | .engVerify b | .txByte b | .rxFeed b => [b.toNat]
  | .rxPrd d => [d.toNat]
  | .nop | .cfgCommit | .softReset | .engClr | .engCompute | .txEnd | .txPop | .rxExtract | .rxFlush => []

/-- A command is well formed when the line that writes it is legal. -/
def Instr.wellFormed (i : Instr) : Bool := AsmLine.wellFormed ⟨i.op, i.args⟩

end Sys2Proof
end

