-- ==== Sys2Proof/Decode.lean ====
section
/-! DEFINITION. Decoding a command word (30_encoding.md R67 to R73), encoding a command (R78), and the
assembler's two steps: a line to a command (R77) and a pseudo-instruction to its lines (R79). -/

namespace Sys2Proof

/-- Why a word is illegal (R72): no row has its opcode, or a bit its format requires to be zero is one. -/
inductive IllegalWord where
  | unassignedOpcode
  | mustBeZeroBit
  deriving DecidableEq, Repr

/-- The opcode of each mnemonic (R71). -/
def Op.code : Op → Byte
  | .nop => 0x00#8
  | .cfgWr => 0x01#8
  | .csrRd => 0x02#8
  | .cfgCommit => 0x03#8
  | .softReset => 0x04#8
  | .stuff => 0x10#8
  | .engClr => 0x20#8
  | .engByte => 0x21#8
  | .engCompute => 0x22#8
  | .engVerify => 0x23#8
  | .txByte => 0x30#8
  | .txEnd => 0x31#8
  | .txPop => 0x32#8
  | .rxFeed => 0x40#8
  | .rxExtract => 0x41#8
  | .rxPrd => 0x42#8
  | .rxFlush => 0x43#8

/-- The bits of a word that must match, per format (R68). -/
def Format.mask : Format → Word
  | .none => 0xFFFFFFFF#32
  | .byte => 0xFFFFFF00#32
  | .csr => 0xFF00FFFF#32
  | .csrData => 0xFF000000#32
  | .index => 0xFFFF0000#32

/-- Every mnemonic, in the order of R71. -/
def Op.all : List Op :=
  [.nop, .cfgWr, .csrRd, .cfgCommit, .softReset, .stuff, .engClr, .engByte, .engCompute, .engVerify,
    .txByte, .txEnd, .txPop, .rxFeed, .rxExtract, .rxPrd, .rxFlush]

/-- The row of R71 with this opcode, if there is one. -/
def Op.ofCode (c : Byte) : Option Op := Op.all.find? (fun o => o.code == c)

/-- The fields of a command word (R67): OP = bits 31:24, A = bits 23:16, D = bits 15:0, and B = D[7:0]. -/
def opField (w : Word) : Byte := w.extractLsb' 24 8
def aField (w : Word) : Byte := w.extractLsb' 16 8
def dField (w : Word) : Half := w.extractLsb' 0 16
def bField (w : Word) : Byte := w.extractLsb' 0 8

/-- The command of a row, its operands taken from the word unscaled and unsigned (R70). -/
def Op.build (o : Op) (w : Word) : Instr :=
  match o with
  | .nop => .nop
  | .cfgWr => .cfgWr (aField w) (dField w)
  | .csrRd => .csrRd (aField w)
  | .cfgCommit => .cfgCommit
  | .softReset => .softReset
  | .stuff => .stuff (bField w)
  | .engClr => .engClr
  | .engByte => .engByte (bField w)
  | .engCompute => .engCompute
  | .engVerify => .engVerify (bField w)
  | .txByte => .txByte (bField w)
  | .txEnd => .txEnd
  | .txPop => .txPop
  | .rxFeed => .rxFeed (bField w)
  | .rxExtract => .rxExtract
  | .rxPrd => .rxPrd (dField w)
  | .rxFlush => .rxFlush

/-- R72's Decode: find the row of the opcode, then compare the masked word with the row's match. -/
def decode (w : Word) : Except IllegalWord Instr :=
  match Op.ofCode (opField w) with
  | none => .error .unassignedOpcode
  | some o =>
    if w &&& o.format.mask = o.code.setWidth 32 <<< 24 then .ok (o.build w) else .error .mustBeZeroBit

/-- A word put together from its fields (R67): OP << 24 | A << 16 | D. -/
def wordOf (o : Op) (a : Byte) (d : Half) : Word :=
  o.code.setWidth 32 <<< 24 ||| a.setWidth 32 <<< 16 ||| d.setWidth 32

/-- The word of a command (R67, R78); fields its format leaves unused are zero. -/
def encode : Instr → Word
  | .nop => wordOf .nop 0 0
  | .cfgWr a d => wordOf .cfgWr a d
  | .csrRd a => wordOf .csrRd a 0
  | .cfgCommit => wordOf .cfgCommit 0 0
  | .softReset => wordOf .softReset 0 0
  | .stuff b => wordOf .stuff 0 (b.setWidth 16)
  | .engClr => wordOf .engClr 0 0
  | .engByte b => wordOf .engByte 0 (b.setWidth 16)
  | .engCompute => wordOf .engCompute 0 0
  | .engVerify b => wordOf .engVerify 0 (b.setWidth 16)
  | .txByte b => wordOf .txByte 0 (b.setWidth 16)
  | .txEnd => wordOf .txEnd 0 0
  | .txPop => wordOf .txPop 0 0
  | .rxFeed b => wordOf .rxFeed 0 (b.setWidth 16)
  | .rxExtract => wordOf .rxExtract 0 0
  | .rxPrd d => wordOf .rxPrd 0 d
  | .rxFlush => wordOf .rxFlush 0 0

/-- The command the decoder reads from the table's bits: the block's one word of 32 bits (R69), whole
and with no byte order (R53). Bits above `nbits` are zero. -/
def decodeTableWord (nbits w : Nat) : Option Instr :=
  (decode (BitVec.ofNat 32 (w % 2 ^ nbits))).toOption

/-- The command a legal line stands for; `none` is R77's assembly error. -/
def assemble (l : AsmLine) : Option Instr :=
  if l.wellFormed then
    match l.op, l.args with
    | .nop, _ => some .nop
    | .cfgWr, [a, d] => some (.cfgWr (BitVec.ofNat 8 a) (BitVec.ofNat 16 d))
    | .csrRd, [a] => some (.csrRd (BitVec.ofNat 8 a))
    | .cfgCommit, _ => some .cfgCommit
    | .softReset, _ => some .softReset
    | .stuff, [b] => some (.stuff (BitVec.ofNat 8 b))
    | .engClr, _ => some .engClr
    | .engByte, [b] => some (.engByte (BitVec.ofNat 8 b))
    | .engCompute, _ => some .engCompute
    | .engVerify, [b] => some (.engVerify (BitVec.ofNat 8 b))
    | .txByte, [b] => some (.txByte (BitVec.ofNat 8 b))
    | .txEnd, _ => some .txEnd
    | .txPop, _ => some .txPop
    | .rxFeed, [b] => some (.rxFeed (BitVec.ofNat 8 b))
    | .rxExtract, _ => some .rxExtract
    | .rxPrd, [d] => some (.rxPrd (BitVec.ofNat 16 d))
    | .rxFlush, _ => some .rxFlush
    | _, _ => none
  else none

/-- The lines a pseudo-instruction expands to, in order (R79). CSR numbers are those of R23. -/
def Pseudo.expand : Pseudo → List AsmLine
  | .send bytes => bytes.map (fun b => ⟨.txByte, [b]⟩) ++ [⟨.txEnd, []⟩]
  | .feed bytes => bytes.map (fun b => ⟨.rxFeed, [b]⟩)
  | .checksum bytes => ⟨.engClr, []⟩ :: bytes.map (fun b => ⟨.engByte, [b]⟩) ++ [⟨.engCompute, []⟩]
  | .configParity start stop esc evenmk oddmk fmax pos =>
    [⟨.cfgWr, [0x00, pos <<< 1]⟩, ⟨.cfgWr, [0x01, start]⟩, ⟨.cfgWr, [0x02, stop]⟩,
      ⟨.cfgWr, [0x03, esc]⟩, ⟨.cfgWr, [0x04, evenmk]⟩, ⟨.cfgWr, [0x05, oddmk]⟩,
      ⟨.cfgWr, [0x08, fmax]⟩, ⟨.cfgCommit, []⟩]
  | .configCrc start stop esc gen deg fmax pos =>
    [⟨.cfgWr, [0x00, pos <<< 1 ||| 1]⟩, ⟨.cfgWr, [0x01, start]⟩, ⟨.cfgWr, [0x02, stop]⟩,
      ⟨.cfgWr, [0x03, esc]⟩, ⟨.cfgWr, [0x06, gen]⟩, ⟨.cfgWr, [0x07, deg]⟩,
      ⟨.cfgWr, [0x08, fmax]⟩, ⟨.cfgCommit, []⟩]

/-- The commands of a list of lines; one illegal line makes the whole list an assembly error (R77). -/
def assembleAll : List AsmLine → Option (List Instr)
  | [] => some []
  | l :: ls => (assemble l).bind fun i => (assembleAll ls).map fun is => i :: is

end Sys2Proof
end

