-- ==== Sys2Proof/Machine/Ports.lean ====
section
/-! DEFINITION. What the block does with what the host puts on its ports: an illegal word (30_encoding.md
R73), and a `rst` pulse (70_reset_and_hazards.md R156); and the word a host presents. -/

namespace Sys2Proof.Machine

/-- The answer to an illegal word (R73): no state changes, and the response is ILLEGAL. -/
def answerIllegal (s : State) : Result := s.raise .illegal

/-- The answer to a `rst` pulse (R156): every element to its reset value, and no response word. -/
def answerRst (s : State) : Result := .next s.resetBlock

/-- The `nbits` table bits as the host's next command word (R53, R69). -/
def tableInput (nbits w : Nat) : HostInput := .command (BitVec.ofNat 32 (w % 2 ^ nbits))

end Sys2Proof.Machine
end

