-- ==== Sys2Proof/Machine/Step.lean ====
section
/-! DEFINITION. One step (00_scope.md R11): the block takes the oldest pending input of the host and does what
it asks; with none pending it does nothing (DEDUCED, log entry 3). -/

namespace Sys2Proof.Machine

/-- One step of the block (R11, R59, R72, R73, R156). -/
def step (s : State) : Host.Outcome State Fault Refusal :=
  match s.cmd with
  | [] => .next s
  | .rst :: rest => answerRst (s.setCmd rest)
  | .command w :: rest =>
    match decode w with
    | .ok i => exec i (s.setCmd rest)
    | .error _ => answerIllegal (s.setCmd rest)

/-- The host presents this word next (R8): the block fetches nothing (R21), so its next instruction is
the oldest pending input of port `cmd` (log entry 1). -/
def State.withFetchWord (s : State) (nbits w : Nat) : State := { s with cmd := tableInput nbits w :: s.cmd }

end Sys2Proof.Machine
end

