-- ==== Sys2Proof/Safety.lean ====
section
/-! DEFINITION. What counts as a good state (what the rules say of every state the block can be in) and as a
run in which every command responds OK, in the terms the statements use. -/

namespace Sys2Proof.Machine

/-- The queues hold no more than their capacity (10_state.md R22, R37, R38, R40). -/
abbrev State.QueuesFit (s : State) : Prop :=
  s.txq.length ≤ s.params.txqDepth ∧ s.rxbuf.length ≤ s.params.rxbufDepth ∧ s.rxpay.length ≤ s.params.rxbufDepth

/-- CFG_VALID = 1 only under a configuration that passes every check, and CFG_ERR is a check number or 0
(R22, R31, 40_control.md R87). -/
abbrev State.VerdictOk (s : State) : Prop :=
  (s.cfgValid = true → s.cfg.firstFailedCheck = 0 ∧ s.cfgErr = 0) ∧ s.cfgErr.toNat ≤ 7

/-- The framer's state (R36): nothing counted while no frame is open; an open frame holds at least one
byte, and fewer than F. DEDUCED (log entry 4): the bound F is that of the configuration in force, since
CFG_WR may store a smaller FMAX while a frame is open. -/
abbrev State.FramerOk (s : State) : Prop :=
  (s.txinf = false → s.txcnt = 0 ∧ s.txcrc = 0 ∧ s.txpar = false) ∧
  (s.txinf = true → 1 ≤ s.txcnt.toNat) ∧
  (s.txinf = true → s.cfgValid = true → s.txcnt.toNat < s.cfg.fmax.toNat)

/-- The running remainders have degree below d in the CRC scheme, and are 0 in the Parity scheme, while
the configuration is in force (R35, 43_framer.md R117). -/
abbrev State.RemaindersOk (s : State) : Prop :=
  (s.cfgValid = true → s.cfg.scheme = .crc →
    s.engcrc.toNat < 2 ^ s.cfg.deg.toNat ∧ s.txcrc.toNat < 2 ^ s.cfg.deg.toNat) ∧
  (s.cfgValid = true → s.cfg.scheme = .parity → s.engcrc = 0 ∧ s.txcrc = 0)

/-- A payload is held only after a FRAME outcome (R40, R41), and the decoder is in ACC only after an
INCOMPLETE one (44_deframer.md R125, R135, R137). -/
abbrev State.ReceiverOk (s : State) : Prop :=
  (s.lastout ≠ 1 → s.rxpay = []) ∧ (s.dstate = .acc → s.lastout = 2)

/-- What holds of the block after reset and after every step. -/
abbrev State.Inv (s : State) : Prop :=
  s.params.InRange ∧ s.QueuesFit ∧ s.VerdictOk ∧ s.FramerOk ∧ s.RemaindersOk ∧ s.ReceiverOk

/-- A configuration that CFG_COMMIT puts in force (40_control.md R86). -/
abbrev Cfg.Valid (c : Cfg) : Prop := c.firstFailedCheck = 0

/-- Nothing is left to send: the postcondition 60_exceptions.md R155 asks of a claim that needs the
framer's output complete and the wire bytes taken. -/
abbrev State.OutputComplete (s : State) : Prop := s.txinf = false ∧ s.txq = []

/-- The status field of a response word is OK (30_encoding.md R74, R75). -/
def responseOk (r : Word) : Bool := r.extractLsb' 28 4 == 0#4

/-- Runs commands one after the other as long as each responds OK; answers their responses and the last
state, or `none` when one did not respond OK. -/
def okRun : List Instr → State → Option (List Word × State)
  | [], s => some ([], s)
  | i :: is, s =>
    match exec i s with
    | .next t =>
      match t.resp.getLast? with
      | some r => if responseOk r then (okRun is t).map (fun q => (r :: q.1, q.2)) else none
      | none => none
    | .fault _ => none
    | .refused _ => none

/-- The bytes the TX_POP commands of a run took, in order: V[7:0] of their responses (R76). -/
def poppedBytes : List Instr → List Word → List Byte
  | .txPop :: is, r :: rs => r.extractLsb' 0 8 :: poppedBytes is rs
  | _ :: is, _ :: rs => poppedBytes is rs
  | _, _ => []

end Sys2Proof.Machine
end

