-- ==== Sys2Proof/Certificates/Slice0/Obligations.lean ====
section
/-! DEFINITION. The statements for the provers, from the numbered rules of spec/, with the few functions of the
spec's own notation they are written in (Sys2Proof.Claims). A response word is written out as the number R74
makes of it. The block's ports are the model's own fields State.cmd and State.resp (DESIGN CHOICE, log entry 1).
Nothing is proved here. -/

namespace Sys2Proof.Claims

open Sys2Proof.Machine

/-- The rows of the opcode table: mnemonic, match, mask (30_encoding.md R71, R68). -/
def tableRows : List (Op × Word × Word) :=
  [(.nop, 0x00000000#32, 0xFFFFFFFF#32), (.cfgWr, 0x01000000#32, 0xFF000000#32),
    (.csrRd, 0x02000000#32, 0xFF00FFFF#32), (.cfgCommit, 0x03000000#32, 0xFFFFFFFF#32),
    (.softReset, 0x04000000#32, 0xFFFFFFFF#32), (.stuff, 0x10000000#32, 0xFFFFFF00#32),
    (.engClr, 0x20000000#32, 0xFFFFFFFF#32), (.engByte, 0x21000000#32, 0xFFFFFF00#32),
    (.engCompute, 0x22000000#32, 0xFFFFFFFF#32), (.engVerify, 0x23000000#32, 0xFFFFFF00#32),
    (.txByte, 0x30000000#32, 0xFFFFFF00#32), (.txEnd, 0x31000000#32, 0xFFFFFFFF#32),
    (.txPop, 0x32000000#32, 0xFFFFFFFF#32), (.rxFeed, 0x40000000#32, 0xFFFFFF00#32),
    (.rxExtract, 0x41000000#32, 0xFFFFFFFF#32), (.rxPrd, 0x42000000#32, 0xFFFF0000#32),
    (.rxFlush, 0x43000000#32, 0xFFFFFFFF#32)]

/-- No row of the table matches the word (R72, R73). -/
def IsIllegal (w : Word) : Prop := ∀ row ∈ tableRows, w &&& row.2.2 ≠ row.2.1

/-- `ST << 28 | X << 16 | V` of R74, as a sum of numbers. -/
def response (st x v : Nat) : Word := BitVec.ofNat 32 (st * 2 ^ 28 + x * 2 ^ 16 + v)

/-- The state with one more response word on port `resp`, and nothing else changed. -/
def reply (s : State) (r : Word) : State := { s with resp := s.resp ++ [r] }

/-- The commands R144 lists as needing a valid configuration. -/
def needsConfiguration : Op → Bool
  | .stuff | .engClr | .engByte | .engCompute | .engVerify | .txByte | .txEnd | .rxFeed | .rxExtract => true
  | _ => false

/-- popcount of 00_scope.md R15, counted bit by bit. -/
def ones (b : Byte) : Nat := (List.range 8).countP (fun i => b.getLsbD i)

/-- The total of one bits of a byte list (42_error_engine.md R97). -/
def totalOnes (p : List Byte) : Nat := (p.map ones).sum

/-- The registers R90 lists as reserved. -/
def reservedList (c : Cfg) : List Byte :=
  if c.ctrl[0] then [c.start, c.stop, c.esc] else [c.start, c.stop, c.esc, c.evenmk, c.oddmk]

/-- The condition of each numbered check of 40_control.md R86. -/
def checkFails (c : Cfg) : Nat → Prop
  | 1 => c.start = c.stop ∨ c.start = c.esc ∨ c.stop = c.esc
  | 2 => c.fmax = 0
  | 3 => c.ctrl[0] = false ∧ c.evenmk = c.oddmk
  | 4 => c.ctrl[0] = false ∧ ∃ m ∈ [c.evenmk, c.oddmk], m ∈ [c.start, c.stop, c.esc]
  | 5 => c.ctrl[0] = true ∧ (c.deg.toNat < 1 ∨ 8 < c.deg.toNat)
  | 6 => c.ctrl[0] = true ∧
      (c.gen.getLsbD c.deg.toNat = false ∨ c.gen.toNat / 2 ^ (c.deg.toNat + 1) ≠ 0)
  | 7 => c.ctrl[0] = true ∧ c.gen[0] = false
  | _ => False

/-- ClearDatapath of 10_state.md R46, element by element. -/
def cleared (s : State) : State :=
  { params := s.params, cfg := s.cfg, cfgValid := s.cfgValid, cfgErr := s.cfgErr
    engcrc := 0, engpar := false, txinf := false, txcnt := 0, txcrc := 0, txpar := false
    txq := [], rxbuf := [], dstate := .seek, rxpay := [], lastout := 0, resync := 0, damaged := 0
    cmd := s.cmd, resp := s.resp }

/-- Every element at the value 10_state.md R45 lists for it. -/
def AtReset (s : State) : Prop :=
  s.cfg.ctrl = 0 ∧ s.cfg.start = 0x00 ∧ s.cfg.stop = 0x00 ∧ s.cfg.esc = 0x00 ∧ s.cfg.evenmk = 0x00 ∧
  s.cfg.oddmk = 0x00 ∧ s.cfg.gen = 0x000 ∧ s.cfg.deg = 0 ∧ s.cfg.fmax = 0 ∧ s.cfgValid = false ∧
  s.cfgErr = 0 ∧ s.engcrc = 0 ∧ s.engpar = false ∧ s.txinf = false ∧ s.txcnt = 0 ∧ s.txcrc = 0 ∧
  s.txpar = false ∧ s.txq = [] ∧ s.rxbuf = [] ∧ s.dstate = .seek ∧ s.rxpay = [] ∧ s.lastout = 0 ∧
  s.resync = 0 ∧ s.damaged = 0

/-- The framer's running state as TX_BYTE finds it (43_framer.md R118): that of the open frame, or that of
a new one, and the bytes a new frame begins with. -/
def openCount (s : State) : Nat := if s.txinf then s.txcnt.toNat else 0
def openCrc (s : State) : Byte := if s.txinf then s.txcrc else 0
def openPar (s : State) : Bool := if s.txinf then s.txpar else false
def openBytes (s : State) : List Byte := if s.txinf then [] else [s.cfg.start]

/-- Stuff(b) of 41_codec.md R91 over the reserved list of R90. -/
def stuffed (c : Cfg) (b : Byte) : List Byte := if b ∈ reservedList c then [c.esc, b] else [b]

/-- The remainder after TX_BYTE B or ENG_BYTE B: CrcByte in the CRC scheme, unchanged in Parity. -/
def nextCrc (c : Cfg) (crc b : Byte) : Byte := if c.ctrl[0] then c.crcByte crc b else crc

/-- The parity after TX_BYTE B or ENG_BYTE B. -/
def nextPar (par : Bool) (b : Byte) : Bool := par ^^ decide (ones b % 2 = 1)

/-- CloseBytes() of 43_framer.md R117 on a running remainder and parity. -/
def closing (c : Cfg) (crc : Byte) (par : Bool) : List Byte :=
  let code := if c.ctrl[0] then c.crcFinal crc else if par then c.oddmk else c.evenmk
  if c.ctrl[1] then [c.stop, code]
  else if c.ctrl[0] = true ∧ code ∈ [c.start, c.stop, c.esc] then [c.esc, code, c.stop]
  else [code, c.stop]

/-- The bytes TX_BYTE B pushes (R118). -/
def txByteOut (s : State) (b : Byte) : List Byte :=
  openBytes s ++ stuffed s.cfg b ++
    (if openCount s + 1 = s.cfg.fmax.toNat then
      closing s.cfg (nextCrc s.cfg (openCrc s) b) (nextPar (openPar s) b) else [])

/-- The value of CSR_RD for every assigned number (10_state.md R23 to R34), as a number. -/
def csrTable (s : State) : List (Byte × Nat) :=
  [(0x00, s.cfg.ctrl.toNat), (0x01, s.cfg.start.toNat), (0x02, s.cfg.stop.toNat), (0x03, s.cfg.esc.toNat),
    (0x04, s.cfg.evenmk.toNat), (0x05, s.cfg.oddmk.toNat), (0x06, s.cfg.gen.toNat), (0x07, s.cfg.deg.toNat),
    (0x08, s.cfg.fmax.toNat),
    (0x10, s.cfgValid.toNat + 2 * (if s.dstate = .acc then 1 else 0) + 4 * s.txinf.toNat
      + 16 * s.lastout.toNat + 256 * s.cfgErr.toNat),
    (0x11, s.rxbuf.length), (0x12, s.rxpay.length), (0x13, s.txq.length), (0x14, s.txcnt.toNat),
    (0x15, s.resync.toNat), (0x16, s.damaged.toNat), (0x17, 256 * s.engpar.toNat + s.engcrc.toNat),
    (0x18, 256 * s.txpar.toNat + s.txcrc.toNat)]

/-- A bit pattern as a polynomial over GF(2): bit i is the coefficient of x^i (10_state.md R28,
20_memory.md R51). -/
noncomputable def bitsPoly {w : Nat} (v : BitVec w) : Polynomial (ZMod 2) :=
  ∑ i ∈ Finset.range w, if v.getLsbD i then Polynomial.X ^ i else 0

/-- M(x) of 42_error_engine.md R100: the bits of the list, most significant bit of each byte first, bytes
in order, the last bit being the coefficient of x^0. -/
noncomputable def messagePoly : List Byte → Polynomial (ZMod 2)
  | [] => 0
  | b :: p => bitsPoly b * Polynomial.X ^ (8 * p.length) + messagePoly p

/-- The list with bit k inverted, bits counted from the most significant bit of the first byte (R50). -/
def flipBit : List Byte → Nat → List Byte
  | [], _ => []
  | b :: p, k => if k < 8 then (b ^^^ (1#8 <<< (7 - k))) :: p else b :: flipBit p (k - 8)

/-- How many bits two lists of bytes differ in, position by position. -/
def differingBits (p q : List Byte) : Nat := ((p.zip q).map (fun x => ones (x.1 ^^^ x.2))).sum

/-- Another transmit side in the same block (43_framer.md R36, R37). -/
def withTx (s : State) (inf : Bool) (cnt : Half) (crc : Byte) (par : Bool) (q : List Byte) : State :=
  { s with txinf := inf, txcnt := cnt, txcrc := crc, txpar := par, txq := q }

/-- Another receive side in the same block (10_state.md R38 to R41, R33). -/
def withRx (s : State) (buf : List Byte) (ds : DState) (pay : List Byte) (out : BitVec 2) (m n : Half) : State :=
  { s with rxbuf := buf, dstate := ds, rxpay := pay, lastout := out, resync := m, damaged := n }

/-- Another engine in the same block (10_state.md R35). -/
def withEng (s : State) (crc : Byte) (par : Bool) : State := { s with engcrc := crc, engpar := par }

/-- The outcome of a command with its next state changed by f. -/
def mapNext (f : State → State) : Result → Result
  | .next t => .next (f t)
  | .fault r => .fault r
  | .refused r => .refused r

/-- The payloads a host sees that runs these commands one after the other: RXPAY after each RX_EXTRACT that
responds with the outcome FRAME (44_deframer.md R124, R135). -/
def framesSeen : List Instr → State → List (List Byte)
  | [], _ => []
  | i :: is, s =>
    match exec i s with
    | .next t => (if i = .rxExtract ∧ t.lastout = 1 then [t.rxpay] else []) ++ framesSeen is t
    | .fault _ => []
    | .refused _ => []

/-- The bytes that a buffer holding neither an unescaped START nor STOP nor a dangling ESC accumulates: ESC makes the
next byte literal whatever it is, and any other byte stands for itself (44_deframer.md R127). `none` for any other
buffer. -/
def readAsData (c : Cfg) : List Byte → Option (List Byte)
  | [] => some []
  | b :: rest =>
    if b = c.esc then
      match rest with
      | [] => none
      | x :: rest' => (readAsData c rest').map (fun p => x :: p)
    else if b = c.start ∨ b = c.stop then none
    else (readAsData c rest).map (fun p => b :: p)

/-- Where an attempt in ACC stops reading, on the bytes `tail` after the current frame's START. INCOMPLETE keeps all of
`tail`: data, a dangling ESC, or in the after-stop layout a STOP whose code byte has not arrived (44_deframer.md R127,
R130). A frame closes at the first unescaped STOP; what is kept begins after it, or after the code byte that follows it
(R129, R130). -/
def EndsWithin (c : Cfg) (tail : List Byte) (a : Attempt) : Prop :=
  ∃ data, readAsData c data ≠ none ∧
    if a.outcome = .incomplete then
      a.dstate = .acc ∧ a.buf = tail ∧
        (tail = data ∨ tail = data ++ [c.esc] ∨ c.codePos = .afterStop ∧ tail = data ++ [c.stop])
    else if c.codePos = .afterStop then ∃ code, tail = data ++ c.stop :: code :: a.buf
    else tail = data ++ c.stop :: a.buf

/-- The classes of the bytes an attempt reads, from the head of the buffer (44_deframer.md R126, R128, R132): in SEEK,
garbage holding no START and the START after it (or garbage alone, all removed); one run of data with the fresh START
that abandons it for each resynchronization; and the bytes of the last frame. -/
def Classifies (c : Cfg) (ds : DState) (buf : List Byte) (a : Attempt) : Prop :=
  (ds = .seek ∧ c.start ∉ buf ∧ a.outcome = .incomplete ∧ a.dstate = .seek ∧ a.buf = []) ∨
  ∃ (lead : List Byte) (abandoned : List (List Byte)) (tail : List Byte),
    (match ds with
      | .acc => lead = []
      | .seek => ∃ garbage, c.start ∉ garbage ∧ lead = garbage ++ [c.start]) ∧
    buf = lead ++ abandoned.flatMap (fun d => d ++ [c.start]) ++ tail ∧
    (∀ d ∈ abandoned, readAsData c d ≠ none) ∧ a.resyncs = abandoned.length ∧ EndsWithin c tail a

/-- How many of the inputs are command words. -/
def commandCount (l : List HostInput) : Nat := l.countP (fun x => x != .rst)

end Sys2Proof.Claims

section

open Sys2Proof Sys2Proof.Machine Sys2Proof.Claims

/-! ### Encoding -/

/-- Decode and encode agree on every command with every operand (30_encoding.md R70, R72, R78). -/
def Obligations.DecodeOfEncodeIsTheCommand : Prop :=
  ∀ i : Instr, decode (encode i) = .ok i

/-- No bit of a legal word is dropped: encoding what was decoded gives the word again (R73). -/
def Obligations.EncodeOfDecodeIsTheWord : Prop :=
  ∀ (w : Word) (i : Instr), decode w = .ok i → encode i = w

/-- R72: a word is legal, as the command of a row, exactly when that row's masked bits match. -/
def Obligations.WordIsLegalExactlyWhenARowMatches : Prop :=
  (∀ (w : Word) (o : Op),
    (∃ i, decode w = .ok i ∧ i.op = o) ↔ ∃ row ∈ tableRows, row.1 = o ∧ w &&& row.2.2 = row.2.1) ∧
  (∀ w : Word, (∃ e, decode w = .error e) ↔ IsIllegal w)

/-- R78: the word of each line. -/
def Obligations.EncodingOfEachLine : Prop :=
  ∀ (a b : Byte) (v d : Half),
    encode .nop = 0x00000000#32 ∧
    (encode (.cfgWr a v)).toNat = 0x01000000 ||| a.toNat <<< 16 ||| v.toNat ∧
    (encode (.csrRd a)).toNat = 0x02000000 ||| a.toNat <<< 16 ∧
    (encode (.stuff b)).toNat = 0x10 <<< 24 ||| b.toNat ∧
    (encode (.engByte b)).toNat = 0x21 <<< 24 ||| b.toNat ∧
    (encode (.engVerify b)).toNat = 0x23 <<< 24 ||| b.toNat ∧
    (encode (.txByte b)).toNat = 0x30 <<< 24 ||| b.toNat ∧
    (encode (.rxFeed b)).toNat = 0x40 <<< 24 ||| b.toNat ∧
    encode .cfgCommit = 0x03000000#32 ∧ encode .softReset = 0x04000000#32 ∧
    encode .engClr = 0x20000000#32 ∧ encode .engCompute = 0x22000000#32 ∧
    encode .txEnd = 0x31000000#32 ∧ encode .txPop = 0x32000000#32 ∧
    encode .rxExtract = 0x41000000#32 ∧ encode .rxFlush = 0x43000000#32 ∧
    (encode (.rxPrd d)).toNat = 0x42000000 ||| d.toNat

/-- R77: a line assembles to its command, and a line whose operands are too many, too few or out of range
is an assembly error, never a truncation. -/
def Obligations.LineAssemblesExactlyWhenOperandsFit : Prop :=
  (∀ (o : Op) (args : List Nat) (i : Instr),
    assemble ⟨o, args⟩ = some i ↔ i.op = o ∧ i.args = args) ∧
  (∀ (o : Op) (args : List Nat), (assemble ⟨o, args⟩).isSome = true ↔
    match o.format, args with
    | .none, [] => True
    | .byte, [b] => b ≤ 255
    | .csr, [a] => a ≤ 255
    | .csrData, [a, d] => a ≤ 255 ∧ d ≤ 65535
    | .index, [d] => d ≤ 65535
    | _, _ => False)

/-- R79: the commands of each pseudo-instruction, in order, for every operand its lines admit (R77): any byte in SEND,
FEED and CHECKSUM; in CONFIG_PARITY and CONFIG_CRC any 16-bit value, of which CFG_WR later stores the register's own low
bits, and any `pos` whose CTRL value fits 16 bits. -/
def Obligations.PseudoInstructionsExpand : Prop :=
  (∀ p : List Byte,
    assembleAll (Pseudo.send (p.map BitVec.toNat)).expand = some (p.map .txByte ++ [.txEnd]) ∧
    assembleAll (Pseudo.feed (p.map BitVec.toNat)).expand = some (p.map .rxFeed) ∧
    assembleAll (Pseudo.checksum (p.map BitVec.toNat)).expand =
      some ([.engClr] ++ p.map .engByte ++ [.engCompute])) ∧
  (∀ (st sp e m1 m2 f : Half) (pos : Nat), pos ≤ 32767 →
    assembleAll (Pseudo.configParity st.toNat sp.toNat e.toNat m1.toNat m2.toNat f.toNat pos).expand =
      some [.cfgWr 0x00 (BitVec.ofNat 16 (2 * pos)), .cfgWr 0x01 st, .cfgWr 0x02 sp,
        .cfgWr 0x03 e, .cfgWr 0x04 m1, .cfgWr 0x05 m2,
        .cfgWr 0x08 f, .cfgCommit]) ∧
  (∀ (st sp e g dg f : Half) (pos : Nat), pos ≤ 32767 →
    assembleAll (Pseudo.configCrc st.toNat sp.toNat e.toNat g.toNat dg.toNat f.toNat pos).expand =
      some [.cfgWr 0x00 (BitVec.ofNat 16 (2 * pos + 1)), .cfgWr 0x01 st, .cfgWr 0x02 sp,
        .cfgWr 0x03 e, .cfgWr 0x06 g, .cfgWr 0x07 dg, .cfgWr 0x08 f, .cfgCommit])

/-- A few words written out from R71 decode to the commands they stand for, one of each format, and a few
illegal ones are refused by name. -/
def Obligations.SampleWordsDecode : Prop :=
  decode 0x01010002#32 = .ok (.cfgWr 0x01 0x0002) ∧ decode 0x02170000#32 = .ok (.csrRd 0x17) ∧
  decode 0x230000F4#32 = .ok (.engVerify 0xF4) ∧ decode 0x31000000#32 = .ok .txEnd ∧
  decode 0x4200FFFF#32 = .ok (.rxPrd 0xFFFF) ∧
  decode 0x05000000#32 = .error .unassignedOpcode ∧ decode 0x10000100#32 = .error .mustBeZeroBit

/-! ### The step -/

/-- A step runs the command that the oldest pending word decodes to, on the state without that word
(00_scope.md R11; that the host's words wait in State.cmd is the model's choice, log entry 1). -/
def Obligations.StepRunsTheDecodedCommand : Prop :=
  ∀ (s : State) (w : Word) (rest : List HostInput) (i : Instr),
    s.cmd = .command w :: rest → decode w = .ok i → step s = exec i { s with cmd := rest }

/-- R73: an illegal word changes no element and responds ILLEGAL with X = 0 and V = 0. That the word waits in
State.cmd and is gone from it after the step is the model's choice (DESIGN CHOICE, log entry 1). -/
def Obligations.IllegalWordOnlyResponds : Prop :=
  ∀ (s : State) (w : Word) (rest : List HostInput),
    s.cmd = .command w :: rest → IsIllegal w →
    step s = .next { s with cmd := rest, resp := s.resp ++ [0x10000000#32] }

/-- R156 and R89: the `rst` input puts every element to its value of R45 and produces no response; SOFT_RESET has the
same effect and responds OK. That the pending inputs and the responses already emitted survive both is the model's
choice (DESIGN CHOICE, log entry 1), and so is that the parameters stand in State and stay (DESIGN CHOICE, log
entry 2). -/
def Obligations.RstAndSoftResetPutEveryElementToItsResetValue : Prop :=
  (∀ (s : State) (rest : List HostInput), s.cmd = .rst :: rest →
    ∃ t, step s = .next t ∧ AtReset t ∧ t.params = s.params ∧ t.cmd = rest ∧ t.resp = s.resp) ∧
  (∀ s : State, ∃ t, exec .softReset s = .next t ∧ AtReset t ∧ t.params = s.params ∧ t.cmd = s.cmd ∧
    t.resp = s.resp ++ [0x00000000#32])

/-- R45: the state after reset, for every value of the two parameters. -/
def Obligations.ResetStateHasTheValuesOfTheTable : Prop :=
  (∀ p : Params, AtReset (State.resetOf p)) ∧ AtReset State.reset

/-- R74: every command word, legal or not, produces exactly one response word, with bits 27:24 zero and, by R75, a
status code of at most 6. That the word waits in State.cmd and that the step takes exactly it is the model's choice
(DESIGN CHOICE, log entry 1). -/
def Obligations.OneResponsePerCommandWord : Prop :=
  ∀ (s : State) (w : Word) (rest : List HostInput), s.cmd = .command w :: rest →
    ∃ t, step s = .next t ∧ t.cmd = rest ∧
      ∃ st x v, st ≤ 6 ∧ x < 256 ∧ v < 65536 ∧ t.resp = s.resp ++ [response st x v]

/-- R74 and R75: the fields and the status codes of the word a command responds with. -/
def Obligations.ResponseWordLayout : Prop :=
  ∀ (x : Byte) (v : Half),
    respWord .ok x v = response 0 x.toNat v.toNat ∧ respWord .illegal x v = response 1 x.toNat v.toNat ∧
    respWord .ecfg x v = response 2 x.toNat v.toNat ∧ respWord .efull x v = response 3 x.toNat v.toNat ∧
    respWord .eempty x v = response 4 x.toNat v.toNat ∧ respWord .erange x v = response 5 x.toNat v.toNat ∧
    respWord .ebadcfg x v = response 6 x.toNat v.toNat

/-- No step faults or is refused (93_implementation_defined.md part 2: every command word, in every state,
has a defined response and next state), and with no input of the host pending a step changes nothing (the model's
idle step, DEDUCED, log entry 3, from 00_scope.md R11 and 60_exceptions.md R153: between two commands the block does
nothing and keeps all its state; that the pending inputs stand in State.cmd is log entry 1). -/
def Obligations.EveryStepAnswersANextState : Prop :=
  (∀ s : State, ∃ t, step s = .next t) ∧ (∀ (i : Instr) (s : State), ∃ t, exec i s = .next t) ∧
  (∀ s : State, s.cmd = [] → step s = .next s)

/-- A run over all pending inputs takes every one of them, keeps the responses already emitted, and adds as many as
there are command words among them. This is the count alone of 20_memory.md R59 and 30_encoding.md R74. The list of
pending inputs it speaks of, and the list of emitted responses, are the model's choice (DESIGN CHOICE, log entry 1);
that the parameters are kept is log entry 2. -/
def Obligations.ARunAnswersEveryPendingCommand : Prop :=
  ∀ s : State, ∃ t, Host.Core.run Sys2Proof.core s.cmd.length s = .next t ∧
    State.cmd t = [] ∧ State.params t = s.params ∧
    ∃ new : List Word, State.resp t = s.resp ++ new ∧ new.length = commandCount s.cmd

/-! ### Control and configuration -/

/-- R81: NOP. -/
def Obligations.NopOnlyResponds : Prop :=
  (∀ w : Word, decode w = .ok .nop ↔ w = 0x00000000#32) ∧
  ∀ s : State, exec .nop s = .next (reply s 0x00000000#32)

/-- R82 and R83: CFG_WR stores the register's own low bits of D, clears CFG_VALID, and touches nothing else; a
number that names no RW register responds ERANGE and changes nothing. -/
def Obligations.CfgWrWritesOneRegister : Prop :=
  ∀ (d : Half) (s : State),
    exec (.cfgWr 0x00 d) s = .next (reply { s with cfgValid := false, cfg := { s.cfg with ctrl := d.extractLsb' 0 2 } } 0) ∧
    exec (.cfgWr 0x01 d) s = .next (reply { s with cfgValid := false, cfg := { s.cfg with start := d.extractLsb' 0 8 } } 0) ∧
    exec (.cfgWr 0x02 d) s = .next (reply { s with cfgValid := false, cfg := { s.cfg with stop := d.extractLsb' 0 8 } } 0) ∧
    exec (.cfgWr 0x03 d) s = .next (reply { s with cfgValid := false, cfg := { s.cfg with esc := d.extractLsb' 0 8 } } 0) ∧
    exec (.cfgWr 0x04 d) s = .next (reply { s with cfgValid := false, cfg := { s.cfg with evenmk := d.extractLsb' 0 8 } } 0) ∧
    exec (.cfgWr 0x05 d) s = .next (reply { s with cfgValid := false, cfg := { s.cfg with oddmk := d.extractLsb' 0 8 } } 0) ∧
    exec (.cfgWr 0x06 d) s = .next (reply { s with cfgValid := false, cfg := { s.cfg with gen := d.extractLsb' 0 9 } } 0) ∧
    exec (.cfgWr 0x07 d) s = .next (reply { s with cfgValid := false, cfg := { s.cfg with deg := d.extractLsb' 0 4 } } 0) ∧
    exec (.cfgWr 0x08 d) s = .next (reply { s with cfgValid := false, cfg := { s.cfg with fmax := d } } 0) ∧
    (∀ a : Byte, 8 < a.toNat → exec (.cfgWr a d) s = .next (reply s (response 5 0 0)))

/-- R24: what CFG_WR stores of a 16-bit value in a register of width w reads back as D mod 2^w. -/
def Obligations.WrittenRegisterReadsBackItsWidth : Prop :=
  ∀ p ∈ [((0x00 : Byte), 2), (0x01, 8), (0x02, 8), (0x03, 8), (0x04, 8), (0x05, 8), (0x06, 9), (0x07, 4), (0x08, 16)],
  ∀ (d : Half) (s : State), ∃ t,
    exec (.cfgWr p.1 d) s = .next t ∧
    exec (.csrRd p.1) t = .next (reply t (response 0 0 (d.toNat % 2 ^ p.2)))

/-- R84 and R85, with the layouts of 10_state.md R31, R32 and R34: CSR_RD of every assigned number returns its
16-bit view and has no effect; an unassigned number responds ERANGE. The premise is the invariant of
reachable states, which makes every length fit in 16 bits (R32). -/
def Obligations.CsrRdReturnsTheView : Prop :=
  ∀ s : State, s.Inv →
    (∀ p ∈ csrTable s, exec (.csrRd p.1) s = .next (reply s (response 0 0 p.2))) ∧
    (∀ a : Byte, a ∉ (csrTable s).map Prod.fst → exec (.csrRd a) s = .next (reply s (response 5 0 0)))

/-- R86: FirstFailedCheck returns the number of the first check whose condition holds, or 0 when none does. -/
def Obligations.FirstFailedCheckIsTheFirst : Prop :=
  ∀ c : Cfg,
    (c.firstFailedCheck.toNat = 0 ↔ ∀ k, 1 ≤ k → k ≤ 7 → ¬ checkFails c k) ∧
    (∀ k, 1 ≤ k → k ≤ 7 →
      (c.firstFailedCheck.toNat = k ↔ checkFails c k ∧ ∀ j, 1 ≤ j → j < k → ¬ checkFails c j))

/-- R87 with R46: CFG_COMMIT clears the datapath whatever the checks say, and puts the configuration in force
exactly when none fails. -/
def Obligations.CfgCommitClearsAndJudges : Prop :=
  ∀ s : State,
    ((∀ k, ¬ checkFails s.cfg k) →
      exec .cfgCommit s = .next (reply { cleared s with cfgValid := true, cfgErr := 0 } 0)) ∧
    (∀ k, checkFails s.cfg k → (∀ j, j < k → ¬ checkFails s.cfg j) →
      exec .cfgCommit s =
        .next (reply { cleared s with cfgValid := false, cfgErr := BitVec.ofNat 4 k } (response 6 k 0)))

/-! ### Errors -/

/-- R144: the nine commands that compute with the configuration respond ECFG and change nothing while
CFG_VALID = 0; no other command ever responds ECFG, and these do not while CFG_VALID = 1. -/
def Obligations.EcfgExactlyWhenTheConfigurationIsNeeded : Prop :=
  ∀ (i : Instr) (s : State),
    (needsConfiguration i.op = true → s.cfgValid = false →
      exec i s = .next (reply s 0x20000000#32)) ∧
    (needsConfiguration i.op = false ∨ s.cfgValid = true →
      ∃ t r, exec i s = .next t ∧ t.resp = s.resp ++ [r] ∧ r.extractLsb' 28 4 ≠ 2#4)

/-- R75 and R142: every status other than OK and EBADCFG means the command changed no state, and comes with
X = 0 and V = 0; so does 00_scope.md R12. -/
def Obligations.ErrorChangesNothing : Prop :=
  ∀ (i : Instr) (s t : State) (r : Word), exec i s = .next t → t.resp = s.resp ++ [r] →
    r.extractLsb' 28 4 ≠ 0#4 → r.extractLsb' 28 4 ≠ 6#4 →
    t = reply s r ∧ r.extractLsb' 0 28 = 0#28

/-! ### Escaping codec -/

/-- R93 with R90 and R91: STUFF returns the stuffed byte, and writes no state. -/
def Obligations.StuffReturnsOneOrTwoBytes : Prop :=
  ∀ (b : Byte) (s : State),
    (s.cfgValid = false → exec (.stuff b) s = .next (reply s (response 2 0 0))) ∧
    (s.cfgValid = true → b ∈ reservedList s.cfg →
      exec (.stuff b) s = .next (reply s (response 0 2 (b.toNat * 256 + s.cfg.esc.toNat)))) ∧
    (s.cfgValid = true → b ∉ reservedList s.cfg →
      exec (.stuff b) s = .next (reply s (response 0 1 b.toNat)))

/-- R94: the length of a stuffed sequence, and that each of its bytes stands as it is or after exactly one ESC. -/
def Obligations.StuffedSequenceEscapesEachReservedByteOnce : Prop :=
  ∀ (c : Cfg) (p : List Byte),
    (c.stuffAll p).length = p.length + p.countP (fun b => decide (b ∈ reservedList c)) ∧
    ∀ (u v : List Byte) (b : Byte), p = u ++ b :: v →
      c.stuffAll p = c.stuffAll u ++ (if b ∈ reservedList c then [c.esc, b] else [b]) ++ c.stuffAll v

/-- R95 and R92: inside a stuffed payload no START, STOP or ESC is read as a delimiter, so the scan reads the
payload back, whatever stands before and after it. R127 and R125, one byte at a time and for every content of the
registers: the byte after ESC is data whatever its value (an unreserved byte, a delimiter, a marker), and so is an
unescaped byte other than START, STOP and ESC (a marker too). -/
def Obligations.ScanReadsAStuffedPayloadBack : Prop :=
  (∀ (c : Cfg), c.Valid → ∀ (p acc entry tail : List Byte) (n : Nat),
    scanAcc c acc entry n (c.stuffAll p ++ tail) = scanAcc c (acc ++ p) entry n tail) ∧
  (∀ (c : Cfg) (acc entry rest : List Byte) (n : Nat) (x : Byte),
    scanAcc c acc entry n (c.esc :: x :: rest) = scanAcc c (acc ++ [x]) entry n rest) ∧
  (∀ (c : Cfg) (acc entry rest : List Byte) (n : Nat) (b : Byte), b ∉ [c.start, c.stop, c.esc] →
    scanAcc c acc entry n (b :: rest) = scanAcc c (acc ++ [b]) entry n rest)

/-! ### Error-code engine -/

/-- R108 and R109: ENG_CLR clears the engine; ENG_BYTE adds one byte to its parity and, in the CRC scheme, to its
remainder. -/
def Obligations.EngClrAndEngByteUpdateTheEngine : Prop :=
  ∀ (b : Byte) (s : State),
    (s.cfgValid = false → exec .engClr s = .next (reply s (response 2 0 0)) ∧
      exec (.engByte b) s = .next (reply s (response 2 0 0))) ∧
    (s.cfgValid = true → exec .engClr s = .next (reply { s with engcrc := 0, engpar := false } 0) ∧
      exec (.engByte b) s = .next (reply { s with
        engpar := s.engpar ^^ decide (ones b % 2 = 1)
        engcrc := if s.cfg.ctrl[0] then s.cfg.crcByte s.engcrc b else s.engcrc } 0))

/-- R110 and R111: ENG_COMPUTE returns the code of the running state, ENG_VERIFY compares a byte with it, and
neither changes any state. -/
def Obligations.EngComputeAndVerifyUseTheSameCode : Prop :=
  ∀ (b : Byte) (s : State) (code : Byte),
    code = (if s.cfg.ctrl[0] then s.cfg.crcFinal s.engcrc
      else if s.engpar then s.cfg.oddmk else s.cfg.evenmk) →
    (s.cfgValid = false → exec .engCompute s = .next (reply s (response 2 0 0)) ∧
      exec (.engVerify b) s = .next (reply s (response 2 0 0))) ∧
    (s.cfgValid = true → exec .engCompute s = .next (reply s (response 0 0 code.toNat)) ∧
      exec (.engVerify b) s = .next (reply s (response 0 0 (if b = code then 1 else 0))))

/-- R107 and R79 (CHECKSUM): after ENG_CLR and the bytes of S, the engine holds the parity of S and, in the CRC
scheme, CrcAbsorb(S), nothing else has changed but the responses, and ENG_COMPUTE returns CodeOf(S). -/
def Obligations.EngineHoldsTheCodeOfItsList : Prop :=
  ∀ (s : State) (l : List Byte), s.cfgValid = true →
    ∃ t, okRun (.engClr :: l.map .engByte) s = some (List.replicate (l.length + 1) 0, t) ∧
      t = { s with
        engpar := decide (totalOnes l % 2 = 1)
        engcrc := if s.cfg.ctrl[0] then s.cfg.crcAbsorb l else 0
        resp := s.resp ++ List.replicate (l.length + 1) 0 } ∧
      exec .engCompute t = .next (reply t (response 0 0 (s.cfg.codeOf l).toNat))

/-- R97 to R99 and R104: in the Parity scheme the code is EVENMK for an even count of one bits and ODDMK for an
odd one, and Verify accepts that byte alone. -/
def Obligations.ParityCodeIsTheMarkerOfTheCount : Prop :=
  ∀ (c : Cfg) (p : List Byte) (code : Byte), c.ctrl[0] = false →
    c.codeOf p = (if totalOnes p % 2 = 0 then c.evenmk else c.oddmk) ∧
    (c.verify p code = true ↔ code = (if totalOnes p % 2 = 0 then c.evenmk else c.oddmk))

/-- R100 and R101: the bit-serial remainder is the remainder of M(x)·x^d divided by G(x) over GF(2). -/
def Obligations.CrcIsThePolynomialRemainder : Prop :=
  ∀ (c : Cfg) (p : List Byte), c.Valid → c.scheme = .crc →
    (bitsPoly c.gen).Monic ∧ (bitsPoly c.gen).natDegree = c.deg.toNat ∧
    bitsPoly (c.crcAbsorb p) = messagePoly p %ₘ bitsPoly c.gen ∧
    bitsPoly (c.crcCode p) = (messagePoly p * Polynomial.X ^ c.deg.toNat) %ₘ bitsPoly c.gen ∧
    (c.crcCode p).toNat < 2 ^ c.deg.toNat

/-- R106: for two lists of the same length, (a) the CRC is the same exactly when G divides their difference, and every
single-bit error fails Verify; (b) the parity bit is the same exactly when they differ in an even number of bits. -/
def Obligations.ErrorsTheCodesDetect : Prop :=
  (∀ (c : Cfg) (p q : List Byte), c.Valid → c.scheme = .crc → p.length = q.length →
    (c.crcCode p = c.crcCode q ↔ bitsPoly c.gen ∣ messagePoly p + messagePoly q)) ∧
  (∀ (c : Cfg) (p : List Byte) (k : Nat), c.Valid → c.scheme = .crc → k < 8 * p.length →
    c.verify (flipBit p k) (c.codeOf p) = false) ∧
  (∀ p q : List Byte, p.length = q.length →
    (parityBit p = parityBit q ↔ differingBits p q % 2 = 0))

/-- R103: Verify compares the received byte with the recomputed code; for d = 8 the comparison agrees with the source's other formulation, that payload and code together
have remainder zero; for d < 8 a code byte with a bit above d - 1 fails. -/
def Obligations.CrcVerifyFormulations : Prop :=
  ∀ (c : Cfg) (p : List Byte) (code : Byte), c.Valid → c.scheme = .crc →
    (c.verify p code = true ↔ code = c.crcCode p) ∧
    (c.deg.toNat = 8 → (c.verify p code = true ↔ c.crcAbsorb (p ++ [code]) = 0)) ∧
    (2 ^ c.deg.toNat ≤ code.toNat → c.verify p code = false)

/-! ### Framer -/

/-- R118: TX_BYTE. ECFG without a configuration; EFULL, with nothing written, when its bytes do not fit; else they
are pushed, and the frame closes on the byte that brings the count to F. Premise: the count of an open frame is
below F, as it is in every reachable state (10_state.md R36). -/
def Obligations.TxBytePushesTheNextBytes : Prop :=
  ∀ (b : Byte) (s : State),
    (s.cfgValid = false → exec (.txByte b) s = .next (reply s (response 2 0 0))) ∧
    (s.cfgValid = true → s.Inv → s.params.txqDepth - s.txq.length < (txByteOut s b).length →
      exec (.txByte b) s = .next (reply s (response 3 0 0))) ∧
    (s.cfgValid = true → s.Inv → (txByteOut s b).length ≤ s.params.txqDepth - s.txq.length →
      exec (.txByte b) s = .next (reply
        (if openCount s + 1 = s.cfg.fmax.toNat then
          { s with txq := s.txq ++ txByteOut s b, txinf := false, txcnt := 0, txcrc := 0, txpar := false }
        else
          { s with
            txq := s.txq ++ txByteOut s b, txinf := true, txcnt := BitVec.ofNat 16 (openCount s + 1)
            txcrc := nextCrc s.cfg (openCrc s) b, txpar := nextPar (openPar s) b })
        (response 0 (txByteOut s b).length 0)))

/-- R120: TX_END closes the open frame, if any. -/
def Obligations.TxEndClosesTheFrame : Prop :=
  ∀ s : State,
    (s.cfgValid = false → exec .txEnd s = .next (reply s (response 2 0 0))) ∧
    (s.cfgValid = true → s.txinf = false → exec .txEnd s = .next (reply s 0)) ∧
    (s.cfgValid = true → s.txinf = true →
      s.params.txqDepth - s.txq.length < (closing s.cfg s.txcrc s.txpar).length →
      exec .txEnd s = .next (reply s (response 3 0 0))) ∧
    (s.cfgValid = true → s.txinf = true →
      (closing s.cfg s.txcrc s.txpar).length ≤ s.params.txqDepth - s.txq.length →
      exec .txEnd s = .next (reply
        { s with txq := s.txq ++ closing s.cfg s.txcrc s.txpar, txinf := false, txcnt := 0, txcrc := 0, txpar := false }
        (response 0 (closing s.cfg s.txcrc s.txpar).length 0)))

/-- R121: TX_POP takes the oldest wire byte, or responds EEMPTY. -/
def Obligations.TxPopTakesTheOldestByte : Prop :=
  ∀ s : State,
    (s.txq = [] → exec .txPop s = .next (reply s (response 4 0 0))) ∧
    (∀ (b : Byte) (rest : List Byte), s.txq = b :: rest →
      exec .txPop s = .next (reply { s with txq := rest } (response 0 0 b.toNat)))

/-- R119: one TX_BYTE pushes at most 6 bytes and one TX_END at most 3, so on an empty TXQ every TX command
completes. -/
def Obligations.TxOutputIsBounded : Prop :=
  (∀ (b : Byte) (s t : State), exec (.txByte b) s = .next t → t.txq.length ≤ s.txq.length + 6) ∧
  (∀ s t : State, exec .txEnd s = .next t → t.txq.length ≤ s.txq.length + 3) ∧
  (∀ (b : Byte) (s : State), s.params.InRange → s.cfgValid = true → s.txq = [] →
    (∃ q, okRun [.txByte b] s = some q) ∧ ∃ q, okRun [.txEnd] s = some q)

/-- R112: the chunks of a payload. -/
def Obligations.ChunksSliceThePayload : Prop :=
  ∀ (f : Nat) (p : List Byte), 1 ≤ f →
    (chunks f p).flatten = p ∧ (chunks f p).length = (p.length + f - 1) / f ∧
    (∀ x ∈ chunks f p, 1 ≤ x.length ∧ x.length ≤ f) ∧ (∀ x ∈ (chunks f p).dropLast, x.length = f) ∧
    chunks f [] = []

/-- R113 to R115, with R117: the wire frame of a chunk, its length, and that the trailer computed from the running
state of the chunk is the trailer of the chunk. -/
def Obligations.FrameBytesOfAChunk : Prop :=
  ∀ (c : Cfg) (p : List Byte),
    c.frameBytes p = [c.start] ++ p.flatMap (stuffed c) ++
      (if c.ctrl[1] then [c.stop, c.codeOf p]
      else (if c.ctrl[0] = true ∧ c.codeOf p ∈ [c.start, c.stop, c.esc] then [c.esc, c.codeOf p]
        else [c.codeOf p]) ++ [c.stop]) ∧
    c.frameBytes p = [c.start] ++ p.flatMap (stuffed c) ++
      c.closeBytes (if c.ctrl[0] then c.crcAbsorb p else 0) (decide (totalOnes p % 2 = 1)) ∧
    1 + p.length + p.countP (fun b => decide (b ∈ reservedList c)) + 2 ≤ (c.frameBytes p).length ∧
    (c.frameBytes p).length ≤ 1 + p.length + p.countP (fun b => decide (b ∈ reservedList c)) + 3 ∧
    (c.frameBytes p).length ≤ 2 * p.length + 4

/-- R122: streaming equals Encode. From a state with a valid configuration and no open frame, TX_BYTE of each byte
of P and then TX_END, every command responding OK and TX_POP interleaved anywhere, appends exactly Encode(P) to the
byte stream of TXQ followed by the popped bytes, and leaves no frame open. -/
def Obligations.StreamingEqualsEncode : Prop :=
  ∀ (s t : State) (p : List Byte) (is : List Instr) (rs : List Word),
    s.Inv → s.cfgValid = true → s.txinf = false →
    is.filter (fun i => decide (i ≠ .txPop)) = p.map .txByte ++ [.txEnd] →
    okRun is s = some (rs, t) →
    poppedBytes is rs ++ t.txq = s.txq ++ s.cfg.encodePayload p ∧ t.txinf = false

/-- R122 and R14: with room for Encode(P) in TXQ, the commands of SEND all respond OK and put exactly Encode(P)
behind what TXQ held; nothing else changes but the responses. -/
def Obligations.SendFillsTheQueueWithEncode : Prop :=
  ∀ (s : State) (p : List Byte), s.Inv → s.cfgValid = true → s.txinf = false →
    s.txq.length + (s.cfg.encodePayload p).length ≤ s.params.txqDepth →
    ∃ rs, okRun (p.map .txByte ++ [.txEnd]) s =
      some (rs, { s with txq := s.txq ++ s.cfg.encodePayload p, resp := s.resp ++ rs })

/-! ### Deframer -/

/-- R134: RX_FEED. -/
def Obligations.RxFeedAppendsOneByte : Prop :=
  ∀ (b : Byte) (s : State),
    (s.cfgValid = false → exec (.rxFeed b) s = .next (reply s (response 2 0 0))) ∧
    (s.cfgValid = true → s.rxbuf.length = s.params.rxbufDepth →
      exec (.rxFeed b) s = .next (reply s (response 3 0 0))) ∧
    (s.cfgValid = true → s.rxbuf.length < s.params.rxbufDepth →
      exec (.rxFeed b) s = .next (reply { s with rxbuf := s.rxbuf ++ [b] } 0))

/-- R135: RX_EXTRACT stores what one decode attempt gives, counts resynchronizations and DAMAGED outcomes modulo
2^16, and responds OK with the outcome code and the payload's length. Premise: the invariant of reachable states,
which makes the length fit in 16 bits. -/
def Obligations.RxExtractIsOneDecodeAttempt : Prop :=
  ∀ s : State,
    (s.cfgValid = false → exec .rxExtract s = .next (reply s (response 2 0 0))) ∧
    (s.cfgValid = true → s.Inv → ∀ a, a = scan s.cfg s.dstate s.rxbuf →
      (a.outcome = .frame → exec .rxExtract s = .next (reply { s with
        dstate := a.dstate, rxbuf := a.buf, rxpay := a.payload, lastout := 1
        resync := BitVec.ofNat 16 ((s.resync.toNat + a.resyncs) % 2 ^ 16) } (response 0 1 a.payload.length))) ∧
      (a.outcome = .incomplete → exec .rxExtract s = .next (reply { s with
        dstate := a.dstate, rxbuf := a.buf, rxpay := [], lastout := 2
        resync := BitVec.ofNat 16 ((s.resync.toNat + a.resyncs) % 2 ^ 16) } (response 0 2 0))) ∧
      (a.outcome = .damaged → exec .rxExtract s = .next (reply { s with
        dstate := a.dstate, rxbuf := a.buf, rxpay := [], lastout := 3
        resync := BitVec.ofNat 16 ((s.resync.toNat + a.resyncs) % 2 ^ 16)
        damaged := BitVec.ofNat 16 ((s.damaged.toNat + 1) % 2 ^ 16) } (response 0 3 0))))

/-- R136: RX_PRD reads one byte of the payload by index and changes nothing. -/
def Obligations.RxPrdReadsByIndex : Prop :=
  ∀ (d : Half) (s : State),
    (s.rxpay.length ≤ d.toNat → exec (.rxPrd d) s = .next (reply s (response 5 0 0))) ∧
    (∀ h : d.toNat < s.rxpay.length,
      exec (.rxPrd d) s = .next (reply s (response 0 0 (s.rxpay[d.toNat]).toNat)))

/-- R137: RX_FLUSH gives up on the receive buffer and touches nothing else. -/
def Obligations.RxFlushEmptiesTheReceiveSide : Prop :=
  ∀ s : State,
    exec .rxFlush s = .next (reply { s with rxbuf := [], dstate := .seek, rxpay := [], lastout := 0 } 0)

/-- R126: in SEEK, the bytes before the first START are discarded and the START is consumed; with no START the
attempt is INCOMPLETE and the buffer is left empty. -/
def Obligations.SeekDiscardsUpToTheFirstStart : Prop :=
  ∀ (c : Cfg) (g rest : List Byte), c.start ∉ g →
    scan c .seek (g ++ c.start :: rest) = scan c .acc rest ∧
    scan c .seek g = ⟨.incomplete, [], .seek, [], 0⟩

/-- R128: a fresh unescaped START abandons what was accumulated, is consumed, and the scan goes on from it; the
attempt counts one resynchronization more. The abandoned bytes are any bytes that the loop reads as data. Such bytes
are a stuffed payload, and a frame cut off just before its STOP (in the before-stop layout: the stuffed payload and
the code bytes of R113, a marker unescaped). -/
def Obligations.FreshStartResynchronises : Prop :=
  ∀ (c : Cfg), c.Valid →
    (∀ abandoned acc rest : List Byte, readAsData c abandoned = some acc →
      scan c .acc (abandoned ++ c.start :: rest) =
        { scan c .acc rest with resyncs := (scan c .acc rest).resyncs + 1 }) ∧
    (∀ p : List Byte, readAsData c (c.stuffAll p) = some p ∧
      (c.codePos = .beforeStop →
        readAsData c (c.stuffAll p ++ c.codeBytes (c.codeOf p)) = some (p ++ [c.codeOf p])))

/-- R127, R129, R130 and R131: how an attempt in ACC ends after the stuffed form of the bytes `p`: at the end of the
buffer, at a dangling ESC, at STOP in the before-stop layout (the code is the last byte, be it escaped or, when it is
no delimiter, a marker say, not escaped; none is DAMAGED), at STOP in the after-stop layout (the code is the next
byte, taken literally, or has not arrived). -/
def Obligations.AttemptEndsAtStopOrEndOfBuffer : Prop :=
  ∀ (c : Cfg), c.Valid → ∀ (p rest : List Byte) (code : Byte),
    scan c .acc (c.stuffAll p) = ⟨.incomplete, [], .acc, c.stuffAll p, 0⟩ ∧
    scan c .acc (c.stuffAll p ++ [c.esc]) = ⟨.incomplete, [], .acc, c.stuffAll p ++ [c.esc], 0⟩ ∧
    (c.codePos = .beforeStop →
      scan c .acc (c.stop :: rest) = ⟨.damaged, [], .seek, rest, 0⟩ ∧
      scan c .acc (c.stuffAll (p ++ [code]) ++ c.stop :: rest) =
        (if code = c.codeOf p then ⟨.frame, p, .seek, rest, 0⟩ else ⟨.damaged, [], .seek, rest, 0⟩) ∧
      scan c .acc (c.stuffAll p ++ [c.esc, code] ++ c.stop :: rest) =
        (if code = c.codeOf p then ⟨.frame, p, .seek, rest, 0⟩ else ⟨.damaged, [], .seek, rest, 0⟩) ∧
      (code ∉ [c.start, c.stop, c.esc] →
        scan c .acc (c.stuffAll p ++ code :: c.stop :: rest) =
          if code = c.codeOf p then ⟨.frame, p, .seek, rest, 0⟩ else ⟨.damaged, [], .seek, rest, 0⟩)) ∧
    (c.codePos = .afterStop →
      scan c .acc (c.stuffAll p ++ [c.stop]) = ⟨.incomplete, [], .acc, c.stuffAll p ++ [c.stop], 0⟩ ∧
      scan c .acc (c.stuffAll p ++ c.stop :: code :: rest) =
        if code = c.codeOf p then ⟨.frame, p, .seek, rest, 0⟩ else ⟨.damaged, [], .seek, rest, 0⟩)

/-- R132 and R131: an attempt removes only bytes from the head of the buffer, and only classified ones: garbage before a
START, the STARTs it consumes, the data each fresh START abandons, and a closed frame, which ends at its unescaped STOP
(before-stop) or at the code byte after that STOP (after-stop). When it ends INCOMPLETE in ACC it removes nothing that
followed the frame's START; only a frame carries a payload; and a closed frame leaves SEEK. -/
def Obligations.ScanRemovesOnlyClassifiedBytes : Prop :=
  ∀ (c : Cfg) (ds : DState) (buf : List Byte) (a : Attempt), a = scan c ds buf →
    (∃ removed, buf = removed ++ a.buf ∧
      (a.outcome = .incomplete → a.dstate = .acc →
        removed = [] ∧ ds = .acc ∧ a.resyncs = 0 ∨ removed.getLast? = some c.start)) ∧
    (a.outcome ≠ .frame → a.payload = []) ∧ (a.outcome ≠ .incomplete → a.dstate = .seek) ∧
    (a.outcome = .incomplete → a.dstate = .seek → a.buf = []) ∧
    a.payload.length + a.buf.length ≤ buf.length ∧ Classifies c ds buf a

/-- R138: the round trip. With a valid configuration, the decoder seeking and RXBUF empty, feeding FrameBytes(C) and
issuing RX_EXTRACT gives FRAME with RXPAY = C, for both schemes and both code placements and for every chunk, and
leaves RXBUF empty and the decoder seeking; nothing else changes but the outcome and the responses. Of the empty
payload the encoder emits nothing, and RX_EXTRACT gives INCOMPLETE. -/
def Obligations.FedFrameRoundTrips : Prop :=
  (∀ (s : State) (p : List Byte), s.Inv → s.cfgValid = true → s.dstate = .seek → s.rxbuf = [] →
    (s.cfg.frameBytes p).length ≤ s.params.rxbufDepth →
    ∃ rs, okRun ((s.cfg.frameBytes p).map .rxFeed ++ [.rxExtract]) s =
      some (rs ++ [response 0 1 p.length],
        { s with rxpay := p, lastout := 1, resp := s.resp ++ rs ++ [response 0 1 p.length] })) ∧
  (∀ s : State, s.cfgValid = true → s.dstate = .seek → s.rxbuf = [] →
    s.cfg.encodePayload [] = [] ∧
    exec .rxExtract s = .next (reply { s with rxpay := [], lastout := 2 } (response 0 2 0)))

/-- R43: re-scanning the buffer from its head gives the same result as resuming where an INCOMPLETE attempt stopped,
whatever bytes came in between. -/
def Obligations.ResumingEqualsRescanning : Prop :=
  ∀ (c : Cfg) (ds : DState) (buf more : List Byte) (a : Attempt),
    a = scan c ds buf → a.outcome = .incomplete →
    scan c ds (buf ++ more) =
      { scan c a.dstate (a.buf ++ more) with resyncs := a.resyncs + (scan c a.dstate (a.buf ++ more)).resyncs }

/-- R139: incremental delivery. Every attempt before a frame's last byte arrives gives INCOMPLETE, without a
resynchronization, and the attempt on the whole frame gives its payload and leaves what followed it. For the wire
bytes of any sequence of frames, RX_EXTRACT after every RX_FEED (with room for each frame but its START, which the
first attempt consumes) gives the same FRAME payloads as feeding all the bytes (with room for all of them) and then
issuing RX_EXTRACT until it gives INCOMPLETE: the frames' own, in order. -/
def Obligations.IncrementalDeliveryGivesTheSameFrames : Prop :=
  (∀ (c : Cfg) (p : List Byte), c.Valid →
    (∀ u v : List Byte, c.frameBytes p = u ++ v → v ≠ [] →
      (scan c .seek u).outcome = .incomplete ∧ (scan c .seek u).resyncs = 0) ∧
    ∀ rest : List Byte, scan c .seek (c.frameBytes p ++ rest) = ⟨.frame, p, .seek, rest, 0⟩) ∧
  (∀ (s : State) (ps : List (List Byte)), s.Inv → s.cfgValid = true → s.dstate = .seek → s.rxbuf = [] →
    ((∀ p ∈ ps, (s.cfg.frameBytes p).length ≤ s.params.rxbufDepth + 1) →
      framesSeen ((ps.flatMap s.cfg.frameBytes).flatMap (fun b => [.rxFeed b, .rxExtract])) s = ps) ∧
    ((ps.flatMap s.cfg.frameBytes).length ≤ s.params.rxbufDepth →
      framesSeen ((ps.flatMap s.cfg.frameBytes).map .rxFeed ++ List.replicate (ps.length + 1) .rxExtract) s = ps))

/-- R140: garbage without a START before a frame is discarded and the frame returned; two frames back to back are
returned by two RX_EXTRACT commands, in order, and a third gives INCOMPLETE. Premise: the invariant of reachable
states, which makes the lengths fit in 16 bits. -/
def Obligations.GarbageThenTwoFrames : Prop :=
  (∀ (s : State) (g p rest : List Byte), s.Inv → s.cfgValid = true → s.dstate = .seek → s.cfg.start ∉ g →
    s.rxbuf = g ++ s.cfg.frameBytes p ++ rest →
    exec .rxExtract s = .next (reply { s with rxbuf := rest, rxpay := p, lastout := 1 } (response 0 1 p.length))) ∧
  ∀ (s : State) (g p q : List Byte), s.Inv → s.cfgValid = true → s.dstate = .seek → s.cfg.start ∉ g →
    s.rxbuf = g ++ s.cfg.frameBytes p ++ s.cfg.frameBytes q →
    ∃ t u v, exec .rxExtract s = .next t ∧ exec .rxExtract t = .next u ∧ exec .rxExtract u = .next v ∧
      t.rxpay = p ∧ t.lastout = 1 ∧ t.rxbuf = s.cfg.frameBytes q ∧ u.rxpay = q ∧ u.lastout = 1 ∧ u.rxbuf = [] ∧
      v.rxpay = [] ∧ v.lastout = 2 ∧ v.rxbuf = [] ∧ v.dstate = .seek ∧ v.resync = s.resync ∧ v.damaged = s.damaged ∧
      v.resp = s.resp ++ [response 0 1 p.length, response 0 1 q.length, response 0 2 0]

/-- R141: a second RX_EXTRACT after an INCOMPLETE one gives INCOMPLETE again and changes nothing. -/
def Obligations.RepeatedIncompleteAttemptChangesNothing : Prop :=
  ∀ s t : State, s.cfgValid = true → exec .rxExtract s = .next t → t.lastout = 2 →
    exec .rxExtract t = .next (reply t (response 0 2 0))

/-- R163: with RXBUF full of one unfinished frame, RX_FEED responds EFULL and RX_EXTRACT frees nothing, so the state
stays stuck; RX_FLUSH frees it. -/
def Obligations.FullBufferOfAnUnfinishedFrameIsStuck : Prop :=
  ∀ s : State, s.Inv → s.cfgValid = true → s.dstate = .acc → s.rxbuf.length = s.params.rxbufDepth →
    (scan s.cfg .acc s.rxbuf).outcome = .incomplete → (scan s.cfg .acc s.rxbuf).resyncs = 0 →
    (∀ b, exec (.rxFeed b) s = .next (reply s (response 3 0 0))) ∧
    (∃ t, exec .rxExtract s = .next t ∧ t.dstate = .acc ∧ t.rxbuf = s.rxbuf) ∧
    (∃ t, exec .rxFlush s = .next t ∧ t.rxbuf = [] ∧
      ∀ b, exec (.rxFeed b) t = .next (reply { t with rxbuf := [b] } 0))

/-! ### The whole machine -/

/-- Every step keeps the invariant, from every state that has it. The invariant says what 10_state.md R22 and R35 to
R41 say of the elements, but that an open frame's count stays below F is said only while CFG_VALID = 1 (DEDUCED, log
entry 4). -/
def Obligations.EveryStepKeepsTheInvariant : Prop :=
  ∀ s t : State, s.Inv → step s = .next t → t.Inv

/-- The invariant holds after reset, for every value of the parameters in the range of 00_scope.md R13. -/
def Obligations.ResetHasTheInvariant : Prop :=
  ∀ p : Params, p.InRange → (State.resetOf p).Inv

/-- 10_state.md R37, R38 and R62: who changes TXQ and RXBUF, and how. -/
def Obligations.OnlyTheirOwnCommandsChangeTheQueues : Prop :=
  ∀ (i : Instr) (s t : State), exec i s = .next t →
    (match i with
      | .txByte _ | .txEnd => ∃ out, t.txq = s.txq ++ out
      | .txPop => t.txq = s.txq.drop 1
      | .cfgCommit | .softReset => t.txq = []
      | _ => t.txq = s.txq) ∧
    (match i with
      | .rxFeed b => t.rxbuf = s.rxbuf ∨ t.rxbuf = s.rxbuf ++ [b]
      | .rxExtract => ∃ removed, s.rxbuf = removed ++ t.rxbuf
      | .rxFlush | .cfgCommit | .softReset => t.rxbuf = []
      | _ => t.rxbuf = s.rxbuf)

/-- 43_framer.md R123, 10_state.md R33, R40, R41 and 40_control.md R82, R87: which commands can change the framer's
state, the counters, the payload and the outcome, the engine, the configuration and its verdict. The last two clauses
are the model's choice and not those rules': that no command changes the parameters, which stand in State (DESIGN
CHOICE, log entry 2), nor the pending inputs, SOFT_RESET included (DESIGN CHOICE, log entry 1). -/
def Obligations.OnlyTheirOwnCommandsChangeTheState : Prop :=
  ∀ (i : Instr) (s t : State), exec i s = .next t →
    (i.op ∉ [.txByte, .txEnd, .cfgCommit, .softReset] →
      t.txinf = s.txinf ∧ t.txcnt = s.txcnt ∧ t.txcrc = s.txcrc ∧ t.txpar = s.txpar) ∧
    (i.op ∉ [.rxExtract, .cfgCommit, .softReset] → t.resync = s.resync ∧ t.damaged = s.damaged) ∧
    (i.op ∉ [.rxExtract, .rxFlush, .cfgCommit, .softReset] →
      t.rxpay = s.rxpay ∧ t.lastout = s.lastout ∧ t.dstate = s.dstate) ∧
    (i.op ∉ [.engClr, .engByte, .cfgCommit, .softReset] → t.engcrc = s.engcrc ∧ t.engpar = s.engpar) ∧
    (i.op ∉ [.cfgWr, .softReset] → t.cfg = s.cfg) ∧
    (i.op ∉ [.cfgWr, .cfgCommit, .softReset] → t.cfgValid = s.cfgValid) ∧
    (i.op ∉ [.cfgCommit, .softReset] → t.cfgErr = s.cfgErr) ∧
    t.params = s.params ∧ t.cmd = s.cmd

/-- R123 and 42_error_engine.md R107: the transmit side, the receive side and the stand-alone engine share only the
configuration. A receive, engine or codec command does the same whatever the transmit side holds, and leaves it; and
so for the other two. -/
def Obligations.TransmitReceiveAndEngineAreIndependent : Prop :=
  (∀ (i : Instr) (s : State) (inf : Bool) (cnt : Half) (crc : Byte) (par : Bool) (q : List Byte),
    i.op ∈ [.stuff, .engClr, .engByte, .engCompute, .engVerify, .rxFeed, .rxExtract, .rxPrd, .rxFlush] →
    exec i (withTx s inf cnt crc par q) = mapNext (fun t => withTx t inf cnt crc par q) (exec i s)) ∧
  (∀ (i : Instr) (s : State) (buf : List Byte) (ds : DState) (pay : List Byte) (out : BitVec 2) (m n : Half),
    i.op ∈ [.stuff, .engClr, .engByte, .engCompute, .engVerify, .txByte, .txEnd, .txPop] →
    exec i (withRx s buf ds pay out m n) = mapNext (fun t => withRx t buf ds pay out m n) (exec i s)) ∧
  (∀ (i : Instr) (s : State) (crc : Byte) (par : Bool),
    i.op ∈ [.stuff, .txByte, .txEnd, .txPop, .rxFeed, .rxExtract, .rxPrd, .rxFlush] →
    exec i (withEng s crc par) = mapNext (fun t => withEng t crc par) (exec i s))

end
end

