-- ==== Sys2Proof/Laws/State.lean ====
section
/-! SUPPORT. One lemma per field per update of State, each true by definition: what an update writes, and that it
leaves every other field alone. -/

namespace Sys2Proof.Machine

variable (s : State)

@[simp] theorem State.emit_params (r : Word) : (s.emit r).params = s.params := rfl
@[simp] theorem State.emit_cfg (r : Word) : (s.emit r).cfg = s.cfg := rfl
@[simp] theorem State.emit_cfgValid (r : Word) : (s.emit r).cfgValid = s.cfgValid := rfl
@[simp] theorem State.emit_cfgErr (r : Word) : (s.emit r).cfgErr = s.cfgErr := rfl
@[simp] theorem State.emit_engcrc (r : Word) : (s.emit r).engcrc = s.engcrc := rfl
@[simp] theorem State.emit_engpar (r : Word) : (s.emit r).engpar = s.engpar := rfl
@[simp] theorem State.emit_txinf (r : Word) : (s.emit r).txinf = s.txinf := rfl
@[simp] theorem State.emit_txcnt (r : Word) : (s.emit r).txcnt = s.txcnt := rfl
@[simp] theorem State.emit_txcrc (r : Word) : (s.emit r).txcrc = s.txcrc := rfl
@[simp] theorem State.emit_txpar (r : Word) : (s.emit r).txpar = s.txpar := rfl
@[simp] theorem State.emit_txq (r : Word) : (s.emit r).txq = s.txq := rfl
@[simp] theorem State.emit_rxbuf (r : Word) : (s.emit r).rxbuf = s.rxbuf := rfl
@[simp] theorem State.emit_dstate (r : Word) : (s.emit r).dstate = s.dstate := rfl
@[simp] theorem State.emit_rxpay (r : Word) : (s.emit r).rxpay = s.rxpay := rfl
@[simp] theorem State.emit_lastout (r : Word) : (s.emit r).lastout = s.lastout := rfl
@[simp] theorem State.emit_resync (r : Word) : (s.emit r).resync = s.resync := rfl
@[simp] theorem State.emit_damaged (r : Word) : (s.emit r).damaged = s.damaged := rfl
@[simp] theorem State.emit_cmd (r : Word) : (s.emit r).cmd = s.cmd := rfl
@[simp] theorem State.emit_resp (r : Word) : (s.emit r).resp = s.resp ++ [r] := rfl

@[simp] theorem State.setCmd_params (rest : List HostInput) : (s.setCmd rest).params = s.params := rfl
@[simp] theorem State.setCmd_cfg (rest : List HostInput) : (s.setCmd rest).cfg = s.cfg := rfl
@[simp] theorem State.setCmd_cfgValid (rest : List HostInput) : (s.setCmd rest).cfgValid = s.cfgValid := rfl
@[simp] theorem State.setCmd_cfgErr (rest : List HostInput) : (s.setCmd rest).cfgErr = s.cfgErr := rfl
@[simp] theorem State.setCmd_engcrc (rest : List HostInput) : (s.setCmd rest).engcrc = s.engcrc := rfl
@[simp] theorem State.setCmd_engpar (rest : List HostInput) : (s.setCmd rest).engpar = s.engpar := rfl
@[simp] theorem State.setCmd_txinf (rest : List HostInput) : (s.setCmd rest).txinf = s.txinf := rfl
@[simp] theorem State.setCmd_txcnt (rest : List HostInput) : (s.setCmd rest).txcnt = s.txcnt := rfl
@[simp] theorem State.setCmd_txcrc (rest : List HostInput) : (s.setCmd rest).txcrc = s.txcrc := rfl
@[simp] theorem State.setCmd_txpar (rest : List HostInput) : (s.setCmd rest).txpar = s.txpar := rfl
@[simp] theorem State.setCmd_txq (rest : List HostInput) : (s.setCmd rest).txq = s.txq := rfl
@[simp] theorem State.setCmd_rxbuf (rest : List HostInput) : (s.setCmd rest).rxbuf = s.rxbuf := rfl
@[simp] theorem State.setCmd_dstate (rest : List HostInput) : (s.setCmd rest).dstate = s.dstate := rfl
@[simp] theorem State.setCmd_rxpay (rest : List HostInput) : (s.setCmd rest).rxpay = s.rxpay := rfl
@[simp] theorem State.setCmd_lastout (rest : List HostInput) : (s.setCmd rest).lastout = s.lastout := rfl
@[simp] theorem State.setCmd_resync (rest : List HostInput) : (s.setCmd rest).resync = s.resync := rfl
@[simp] theorem State.setCmd_damaged (rest : List HostInput) : (s.setCmd rest).damaged = s.damaged := rfl
@[simp] theorem State.setCmd_cmd (rest : List HostInput) : (s.setCmd rest).cmd = rest := rfl
@[simp] theorem State.setCmd_resp (rest : List HostInput) : (s.setCmd rest).resp = s.resp := rfl

@[simp] theorem State.setCfg_params (c : Cfg) : (s.setCfg c).params = s.params := rfl
@[simp] theorem State.setCfg_cfg (c : Cfg) : (s.setCfg c).cfg = c := rfl
@[simp] theorem State.setCfg_cfgValid (c : Cfg) : (s.setCfg c).cfgValid = false := rfl
@[simp] theorem State.setCfg_cfgErr (c : Cfg) : (s.setCfg c).cfgErr = s.cfgErr := rfl
@[simp] theorem State.setCfg_engcrc (c : Cfg) : (s.setCfg c).engcrc = s.engcrc := rfl
@[simp] theorem State.setCfg_engpar (c : Cfg) : (s.setCfg c).engpar = s.engpar := rfl
@[simp] theorem State.setCfg_txinf (c : Cfg) : (s.setCfg c).txinf = s.txinf := rfl
@[simp] theorem State.setCfg_txcnt (c : Cfg) : (s.setCfg c).txcnt = s.txcnt := rfl
@[simp] theorem State.setCfg_txcrc (c : Cfg) : (s.setCfg c).txcrc = s.txcrc := rfl
@[simp] theorem State.setCfg_txpar (c : Cfg) : (s.setCfg c).txpar = s.txpar := rfl
@[simp] theorem State.setCfg_txq (c : Cfg) : (s.setCfg c).txq = s.txq := rfl
@[simp] theorem State.setCfg_rxbuf (c : Cfg) : (s.setCfg c).rxbuf = s.rxbuf := rfl
@[simp] theorem State.setCfg_dstate (c : Cfg) : (s.setCfg c).dstate = s.dstate := rfl
@[simp] theorem State.setCfg_rxpay (c : Cfg) : (s.setCfg c).rxpay = s.rxpay := rfl
@[simp] theorem State.setCfg_lastout (c : Cfg) : (s.setCfg c).lastout = s.lastout := rfl
@[simp] theorem State.setCfg_resync (c : Cfg) : (s.setCfg c).resync = s.resync := rfl
@[simp] theorem State.setCfg_damaged (c : Cfg) : (s.setCfg c).damaged = s.damaged := rfl
@[simp] theorem State.setCfg_cmd (c : Cfg) : (s.setCfg c).cmd = s.cmd := rfl
@[simp] theorem State.setCfg_resp (c : Cfg) : (s.setCfg c).resp = s.resp := rfl

@[simp] theorem State.setVerdict_params (v : Bool) (e : BitVec 4) : (s.setVerdict v e).params = s.params := rfl
@[simp] theorem State.setVerdict_cfg (v : Bool) (e : BitVec 4) : (s.setVerdict v e).cfg = s.cfg := rfl
@[simp] theorem State.setVerdict_cfgValid (v : Bool) (e : BitVec 4) : (s.setVerdict v e).cfgValid = v := rfl
@[simp] theorem State.setVerdict_cfgErr (v : Bool) (e : BitVec 4) : (s.setVerdict v e).cfgErr = e := rfl
@[simp] theorem State.setVerdict_engcrc (v : Bool) (e : BitVec 4) : (s.setVerdict v e).engcrc = s.engcrc := rfl
@[simp] theorem State.setVerdict_engpar (v : Bool) (e : BitVec 4) : (s.setVerdict v e).engpar = s.engpar := rfl
@[simp] theorem State.setVerdict_txinf (v : Bool) (e : BitVec 4) : (s.setVerdict v e).txinf = s.txinf := rfl
@[simp] theorem State.setVerdict_txcnt (v : Bool) (e : BitVec 4) : (s.setVerdict v e).txcnt = s.txcnt := rfl
@[simp] theorem State.setVerdict_txcrc (v : Bool) (e : BitVec 4) : (s.setVerdict v e).txcrc = s.txcrc := rfl
@[simp] theorem State.setVerdict_txpar (v : Bool) (e : BitVec 4) : (s.setVerdict v e).txpar = s.txpar := rfl
@[simp] theorem State.setVerdict_txq (v : Bool) (e : BitVec 4) : (s.setVerdict v e).txq = s.txq := rfl
@[simp] theorem State.setVerdict_rxbuf (v : Bool) (e : BitVec 4) : (s.setVerdict v e).rxbuf = s.rxbuf := rfl
@[simp] theorem State.setVerdict_dstate (v : Bool) (e : BitVec 4) : (s.setVerdict v e).dstate = s.dstate := rfl
@[simp] theorem State.setVerdict_rxpay (v : Bool) (e : BitVec 4) : (s.setVerdict v e).rxpay = s.rxpay := rfl
@[simp] theorem State.setVerdict_lastout (v : Bool) (e : BitVec 4) : (s.setVerdict v e).lastout = s.lastout := rfl
@[simp] theorem State.setVerdict_resync (v : Bool) (e : BitVec 4) : (s.setVerdict v e).resync = s.resync := rfl
@[simp] theorem State.setVerdict_damaged (v : Bool) (e : BitVec 4) : (s.setVerdict v e).damaged = s.damaged := rfl
@[simp] theorem State.setVerdict_cmd (v : Bool) (e : BitVec 4) : (s.setVerdict v e).cmd = s.cmd := rfl
@[simp] theorem State.setVerdict_resp (v : Bool) (e : BitVec 4) : (s.setVerdict v e).resp = s.resp := rfl

@[simp] theorem State.setEng_params (crc : Byte) (par : Bool) : (s.setEng crc par).params = s.params := rfl
@[simp] theorem State.setEng_cfg (crc : Byte) (par : Bool) : (s.setEng crc par).cfg = s.cfg := rfl
@[simp] theorem State.setEng_cfgValid (crc : Byte) (par : Bool) : (s.setEng crc par).cfgValid = s.cfgValid := rfl
@[simp] theorem State.setEng_cfgErr (crc : Byte) (par : Bool) : (s.setEng crc par).cfgErr = s.cfgErr := rfl
@[simp] theorem State.setEng_engcrc (crc : Byte) (par : Bool) : (s.setEng crc par).engcrc = crc := rfl
@[simp] theorem State.setEng_engpar (crc : Byte) (par : Bool) : (s.setEng crc par).engpar = par := rfl
@[simp] theorem State.setEng_txinf (crc : Byte) (par : Bool) : (s.setEng crc par).txinf = s.txinf := rfl
@[simp] theorem State.setEng_txcnt (crc : Byte) (par : Bool) : (s.setEng crc par).txcnt = s.txcnt := rfl
@[simp] theorem State.setEng_txcrc (crc : Byte) (par : Bool) : (s.setEng crc par).txcrc = s.txcrc := rfl
@[simp] theorem State.setEng_txpar (crc : Byte) (par : Bool) : (s.setEng crc par).txpar = s.txpar := rfl
@[simp] theorem State.setEng_txq (crc : Byte) (par : Bool) : (s.setEng crc par).txq = s.txq := rfl
@[simp] theorem State.setEng_rxbuf (crc : Byte) (par : Bool) : (s.setEng crc par).rxbuf = s.rxbuf := rfl
@[simp] theorem State.setEng_dstate (crc : Byte) (par : Bool) : (s.setEng crc par).dstate = s.dstate := rfl
@[simp] theorem State.setEng_rxpay (crc : Byte) (par : Bool) : (s.setEng crc par).rxpay = s.rxpay := rfl
@[simp] theorem State.setEng_lastout (crc : Byte) (par : Bool) : (s.setEng crc par).lastout = s.lastout := rfl
@[simp] theorem State.setEng_resync (crc : Byte) (par : Bool) : (s.setEng crc par).resync = s.resync := rfl
@[simp] theorem State.setEng_damaged (crc : Byte) (par : Bool) : (s.setEng crc par).damaged = s.damaged := rfl
@[simp] theorem State.setEng_cmd (crc : Byte) (par : Bool) : (s.setEng crc par).cmd = s.cmd := rfl
@[simp] theorem State.setEng_resp (crc : Byte) (par : Bool) : (s.setEng crc par).resp = s.resp := rfl

@[simp] theorem State.setTx_params (inf : Bool) (cnt : Half) (crc : Byte) (par : Bool) : (s.setTx inf cnt crc par).params = s.params := rfl
@[simp] theorem State.setTx_cfg (inf : Bool) (cnt : Half) (crc : Byte) (par : Bool) : (s.setTx inf cnt crc par).cfg = s.cfg := rfl
@[simp] theorem State.setTx_cfgValid (inf : Bool) (cnt : Half) (crc : Byte) (par : Bool) : (s.setTx inf cnt crc par).cfgValid = s.cfgValid := rfl
@[simp] theorem State.setTx_cfgErr (inf : Bool) (cnt : Half) (crc : Byte) (par : Bool) : (s.setTx inf cnt crc par).cfgErr = s.cfgErr := rfl
@[simp] theorem State.setTx_engcrc (inf : Bool) (cnt : Half) (crc : Byte) (par : Bool) : (s.setTx inf cnt crc par).engcrc = s.engcrc := rfl
@[simp] theorem State.setTx_engpar (inf : Bool) (cnt : Half) (crc : Byte) (par : Bool) : (s.setTx inf cnt crc par).engpar = s.engpar := rfl
@[simp] theorem State.setTx_txinf (inf : Bool) (cnt : Half) (crc : Byte) (par : Bool) : (s.setTx inf cnt crc par).txinf = inf := rfl
@[simp] theorem State.setTx_txcnt (inf : Bool) (cnt : Half) (crc : Byte) (par : Bool) : (s.setTx inf cnt crc par).txcnt = cnt := rfl
@[simp] theorem State.setTx_txcrc (inf : Bool) (cnt : Half) (crc : Byte) (par : Bool) : (s.setTx inf cnt crc par).txcrc = crc := rfl
@[simp] theorem State.setTx_txpar (inf : Bool) (cnt : Half) (crc : Byte) (par : Bool) : (s.setTx inf cnt crc par).txpar = par := rfl
@[simp] theorem State.setTx_txq (inf : Bool) (cnt : Half) (crc : Byte) (par : Bool) : (s.setTx inf cnt crc par).txq = s.txq := rfl
@[simp] theorem State.setTx_rxbuf (inf : Bool) (cnt : Half) (crc : Byte) (par : Bool) : (s.setTx inf cnt crc par).rxbuf = s.rxbuf := rfl
@[simp] theorem State.setTx_dstate (inf : Bool) (cnt : Half) (crc : Byte) (par : Bool) : (s.setTx inf cnt crc par).dstate = s.dstate := rfl
@[simp] theorem State.setTx_rxpay (inf : Bool) (cnt : Half) (crc : Byte) (par : Bool) : (s.setTx inf cnt crc par).rxpay = s.rxpay := rfl
@[simp] theorem State.setTx_lastout (inf : Bool) (cnt : Half) (crc : Byte) (par : Bool) : (s.setTx inf cnt crc par).lastout = s.lastout := rfl
@[simp] theorem State.setTx_resync (inf : Bool) (cnt : Half) (crc : Byte) (par : Bool) : (s.setTx inf cnt crc par).resync = s.resync := rfl
@[simp] theorem State.setTx_damaged (inf : Bool) (cnt : Half) (crc : Byte) (par : Bool) : (s.setTx inf cnt crc par).damaged = s.damaged := rfl
@[simp] theorem State.setTx_cmd (inf : Bool) (cnt : Half) (crc : Byte) (par : Bool) : (s.setTx inf cnt crc par).cmd = s.cmd := rfl
@[simp] theorem State.setTx_resp (inf : Bool) (cnt : Half) (crc : Byte) (par : Bool) : (s.setTx inf cnt crc par).resp = s.resp := rfl

@[simp] theorem State.setTxq_params (q : List Byte) : (s.setTxq q).params = s.params := rfl
@[simp] theorem State.setTxq_cfg (q : List Byte) : (s.setTxq q).cfg = s.cfg := rfl
@[simp] theorem State.setTxq_cfgValid (q : List Byte) : (s.setTxq q).cfgValid = s.cfgValid := rfl
@[simp] theorem State.setTxq_cfgErr (q : List Byte) : (s.setTxq q).cfgErr = s.cfgErr := rfl
@[simp] theorem State.setTxq_engcrc (q : List Byte) : (s.setTxq q).engcrc = s.engcrc := rfl
@[simp] theorem State.setTxq_engpar (q : List Byte) : (s.setTxq q).engpar = s.engpar := rfl
@[simp] theorem State.setTxq_txinf (q : List Byte) : (s.setTxq q).txinf = s.txinf := rfl
@[simp] theorem State.setTxq_txcnt (q : List Byte) : (s.setTxq q).txcnt = s.txcnt := rfl
@[simp] theorem State.setTxq_txcrc (q : List Byte) : (s.setTxq q).txcrc = s.txcrc := rfl
@[simp] theorem State.setTxq_txpar (q : List Byte) : (s.setTxq q).txpar = s.txpar := rfl
@[simp] theorem State.setTxq_txq (q : List Byte) : (s.setTxq q).txq = q := rfl
@[simp] theorem State.setTxq_rxbuf (q : List Byte) : (s.setTxq q).rxbuf = s.rxbuf := rfl
@[simp] theorem State.setTxq_dstate (q : List Byte) : (s.setTxq q).dstate = s.dstate := rfl
@[simp] theorem State.setTxq_rxpay (q : List Byte) : (s.setTxq q).rxpay = s.rxpay := rfl
@[simp] theorem State.setTxq_lastout (q : List Byte) : (s.setTxq q).lastout = s.lastout := rfl
@[simp] theorem State.setTxq_resync (q : List Byte) : (s.setTxq q).resync = s.resync := rfl
@[simp] theorem State.setTxq_damaged (q : List Byte) : (s.setTxq q).damaged = s.damaged := rfl
@[simp] theorem State.setTxq_cmd (q : List Byte) : (s.setTxq q).cmd = s.cmd := rfl
@[simp] theorem State.setTxq_resp (q : List Byte) : (s.setTxq q).resp = s.resp := rfl

@[simp] theorem State.pushTxq_params (out : List Byte) : (s.pushTxq out).params = s.params := rfl
@[simp] theorem State.pushTxq_cfg (out : List Byte) : (s.pushTxq out).cfg = s.cfg := rfl
@[simp] theorem State.pushTxq_cfgValid (out : List Byte) : (s.pushTxq out).cfgValid = s.cfgValid := rfl
@[simp] theorem State.pushTxq_cfgErr (out : List Byte) : (s.pushTxq out).cfgErr = s.cfgErr := rfl
@[simp] theorem State.pushTxq_engcrc (out : List Byte) : (s.pushTxq out).engcrc = s.engcrc := rfl
@[simp] theorem State.pushTxq_engpar (out : List Byte) : (s.pushTxq out).engpar = s.engpar := rfl
@[simp] theorem State.pushTxq_txinf (out : List Byte) : (s.pushTxq out).txinf = s.txinf := rfl
@[simp] theorem State.pushTxq_txcnt (out : List Byte) : (s.pushTxq out).txcnt = s.txcnt := rfl
@[simp] theorem State.pushTxq_txcrc (out : List Byte) : (s.pushTxq out).txcrc = s.txcrc := rfl
@[simp] theorem State.pushTxq_txpar (out : List Byte) : (s.pushTxq out).txpar = s.txpar := rfl
@[simp] theorem State.pushTxq_txq (out : List Byte) : (s.pushTxq out).txq = s.txq ++ out := rfl
@[simp] theorem State.pushTxq_rxbuf (out : List Byte) : (s.pushTxq out).rxbuf = s.rxbuf := rfl
@[simp] theorem State.pushTxq_dstate (out : List Byte) : (s.pushTxq out).dstate = s.dstate := rfl
@[simp] theorem State.pushTxq_rxpay (out : List Byte) : (s.pushTxq out).rxpay = s.rxpay := rfl
@[simp] theorem State.pushTxq_lastout (out : List Byte) : (s.pushTxq out).lastout = s.lastout := rfl
@[simp] theorem State.pushTxq_resync (out : List Byte) : (s.pushTxq out).resync = s.resync := rfl
@[simp] theorem State.pushTxq_damaged (out : List Byte) : (s.pushTxq out).damaged = s.damaged := rfl
@[simp] theorem State.pushTxq_cmd (out : List Byte) : (s.pushTxq out).cmd = s.cmd := rfl
@[simp] theorem State.pushTxq_resp (out : List Byte) : (s.pushTxq out).resp = s.resp := rfl

@[simp] theorem State.setRx_params (ds : DState) (buf : List Byte) : (s.setRx ds buf).params = s.params := rfl
@[simp] theorem State.setRx_cfg (ds : DState) (buf : List Byte) : (s.setRx ds buf).cfg = s.cfg := rfl
@[simp] theorem State.setRx_cfgValid (ds : DState) (buf : List Byte) : (s.setRx ds buf).cfgValid = s.cfgValid := rfl
@[simp] theorem State.setRx_cfgErr (ds : DState) (buf : List Byte) : (s.setRx ds buf).cfgErr = s.cfgErr := rfl
@[simp] theorem State.setRx_engcrc (ds : DState) (buf : List Byte) : (s.setRx ds buf).engcrc = s.engcrc := rfl
@[simp] theorem State.setRx_engpar (ds : DState) (buf : List Byte) : (s.setRx ds buf).engpar = s.engpar := rfl
@[simp] theorem State.setRx_txinf (ds : DState) (buf : List Byte) : (s.setRx ds buf).txinf = s.txinf := rfl
@[simp] theorem State.setRx_txcnt (ds : DState) (buf : List Byte) : (s.setRx ds buf).txcnt = s.txcnt := rfl
@[simp] theorem State.setRx_txcrc (ds : DState) (buf : List Byte) : (s.setRx ds buf).txcrc = s.txcrc := rfl
@[simp] theorem State.setRx_txpar (ds : DState) (buf : List Byte) : (s.setRx ds buf).txpar = s.txpar := rfl
@[simp] theorem State.setRx_txq (ds : DState) (buf : List Byte) : (s.setRx ds buf).txq = s.txq := rfl
@[simp] theorem State.setRx_rxbuf (ds : DState) (buf : List Byte) : (s.setRx ds buf).rxbuf = buf := rfl
@[simp] theorem State.setRx_dstate (ds : DState) (buf : List Byte) : (s.setRx ds buf).dstate = ds := rfl
@[simp] theorem State.setRx_rxpay (ds : DState) (buf : List Byte) : (s.setRx ds buf).rxpay = s.rxpay := rfl
@[simp] theorem State.setRx_lastout (ds : DState) (buf : List Byte) : (s.setRx ds buf).lastout = s.lastout := rfl
@[simp] theorem State.setRx_resync (ds : DState) (buf : List Byte) : (s.setRx ds buf).resync = s.resync := rfl
@[simp] theorem State.setRx_damaged (ds : DState) (buf : List Byte) : (s.setRx ds buf).damaged = s.damaged := rfl
@[simp] theorem State.setRx_cmd (ds : DState) (buf : List Byte) : (s.setRx ds buf).cmd = s.cmd := rfl
@[simp] theorem State.setRx_resp (ds : DState) (buf : List Byte) : (s.setRx ds buf).resp = s.resp := rfl

@[simp] theorem State.setOutcome_params (pay : List Byte) (o : BitVec 2) : (s.setOutcome pay o).params = s.params := rfl
@[simp] theorem State.setOutcome_cfg (pay : List Byte) (o : BitVec 2) : (s.setOutcome pay o).cfg = s.cfg := rfl
@[simp] theorem State.setOutcome_cfgValid (pay : List Byte) (o : BitVec 2) : (s.setOutcome pay o).cfgValid = s.cfgValid := rfl
@[simp] theorem State.setOutcome_cfgErr (pay : List Byte) (o : BitVec 2) : (s.setOutcome pay o).cfgErr = s.cfgErr := rfl
@[simp] theorem State.setOutcome_engcrc (pay : List Byte) (o : BitVec 2) : (s.setOutcome pay o).engcrc = s.engcrc := rfl
@[simp] theorem State.setOutcome_engpar (pay : List Byte) (o : BitVec 2) : (s.setOutcome pay o).engpar = s.engpar := rfl
@[simp] theorem State.setOutcome_txinf (pay : List Byte) (o : BitVec 2) : (s.setOutcome pay o).txinf = s.txinf := rfl
@[simp] theorem State.setOutcome_txcnt (pay : List Byte) (o : BitVec 2) : (s.setOutcome pay o).txcnt = s.txcnt := rfl
@[simp] theorem State.setOutcome_txcrc (pay : List Byte) (o : BitVec 2) : (s.setOutcome pay o).txcrc = s.txcrc := rfl
@[simp] theorem State.setOutcome_txpar (pay : List Byte) (o : BitVec 2) : (s.setOutcome pay o).txpar = s.txpar := rfl
@[simp] theorem State.setOutcome_txq (pay : List Byte) (o : BitVec 2) : (s.setOutcome pay o).txq = s.txq := rfl
@[simp] theorem State.setOutcome_rxbuf (pay : List Byte) (o : BitVec 2) : (s.setOutcome pay o).rxbuf = s.rxbuf := rfl
@[simp] theorem State.setOutcome_dstate (pay : List Byte) (o : BitVec 2) : (s.setOutcome pay o).dstate = s.dstate := rfl
@[simp] theorem State.setOutcome_rxpay (pay : List Byte) (o : BitVec 2) : (s.setOutcome pay o).rxpay = pay := rfl
@[simp] theorem State.setOutcome_lastout (pay : List Byte) (o : BitVec 2) : (s.setOutcome pay o).lastout = o := rfl
@[simp] theorem State.setOutcome_resync (pay : List Byte) (o : BitVec 2) : (s.setOutcome pay o).resync = s.resync := rfl
@[simp] theorem State.setOutcome_damaged (pay : List Byte) (o : BitVec 2) : (s.setOutcome pay o).damaged = s.damaged := rfl
@[simp] theorem State.setOutcome_cmd (pay : List Byte) (o : BitVec 2) : (s.setOutcome pay o).cmd = s.cmd := rfl
@[simp] theorem State.setOutcome_resp (pay : List Byte) (o : BitVec 2) : (s.setOutcome pay o).resp = s.resp := rfl

@[simp] theorem State.setCounters_params (m n : Half) : (s.setCounters m n).params = s.params := rfl
@[simp] theorem State.setCounters_cfg (m n : Half) : (s.setCounters m n).cfg = s.cfg := rfl
@[simp] theorem State.setCounters_cfgValid (m n : Half) : (s.setCounters m n).cfgValid = s.cfgValid := rfl
@[simp] theorem State.setCounters_cfgErr (m n : Half) : (s.setCounters m n).cfgErr = s.cfgErr := rfl
@[simp] theorem State.setCounters_engcrc (m n : Half) : (s.setCounters m n).engcrc = s.engcrc := rfl
@[simp] theorem State.setCounters_engpar (m n : Half) : (s.setCounters m n).engpar = s.engpar := rfl
@[simp] theorem State.setCounters_txinf (m n : Half) : (s.setCounters m n).txinf = s.txinf := rfl
@[simp] theorem State.setCounters_txcnt (m n : Half) : (s.setCounters m n).txcnt = s.txcnt := rfl
@[simp] theorem State.setCounters_txcrc (m n : Half) : (s.setCounters m n).txcrc = s.txcrc := rfl
@[simp] theorem State.setCounters_txpar (m n : Half) : (s.setCounters m n).txpar = s.txpar := rfl
@[simp] theorem State.setCounters_txq (m n : Half) : (s.setCounters m n).txq = s.txq := rfl
@[simp] theorem State.setCounters_rxbuf (m n : Half) : (s.setCounters m n).rxbuf = s.rxbuf := rfl
@[simp] theorem State.setCounters_dstate (m n : Half) : (s.setCounters m n).dstate = s.dstate := rfl
@[simp] theorem State.setCounters_rxpay (m n : Half) : (s.setCounters m n).rxpay = s.rxpay := rfl
@[simp] theorem State.setCounters_lastout (m n : Half) : (s.setCounters m n).lastout = s.lastout := rfl
@[simp] theorem State.setCounters_resync (m n : Half) : (s.setCounters m n).resync = m := rfl
@[simp] theorem State.setCounters_damaged (m n : Half) : (s.setCounters m n).damaged = n := rfl
@[simp] theorem State.setCounters_cmd (m n : Half) : (s.setCounters m n).cmd = s.cmd := rfl
@[simp] theorem State.setCounters_resp (m n : Half) : (s.setCounters m n).resp = s.resp := rfl

@[simp] theorem State.clearDatapath_params : (s.clearDatapath).params = s.params := rfl
@[simp] theorem State.clearDatapath_cfg : (s.clearDatapath).cfg = s.cfg := rfl
@[simp] theorem State.clearDatapath_cfgValid : (s.clearDatapath).cfgValid = s.cfgValid := rfl
@[simp] theorem State.clearDatapath_cfgErr : (s.clearDatapath).cfgErr = s.cfgErr := rfl
@[simp] theorem State.clearDatapath_engcrc : (s.clearDatapath).engcrc = 0 := rfl
@[simp] theorem State.clearDatapath_engpar : (s.clearDatapath).engpar = false := rfl
@[simp] theorem State.clearDatapath_txinf : (s.clearDatapath).txinf = false := rfl
@[simp] theorem State.clearDatapath_txcnt : (s.clearDatapath).txcnt = 0 := rfl
@[simp] theorem State.clearDatapath_txcrc : (s.clearDatapath).txcrc = 0 := rfl
@[simp] theorem State.clearDatapath_txpar : (s.clearDatapath).txpar = false := rfl
@[simp] theorem State.clearDatapath_txq : (s.clearDatapath).txq = [] := rfl
@[simp] theorem State.clearDatapath_rxbuf : (s.clearDatapath).rxbuf = [] := rfl
@[simp] theorem State.clearDatapath_dstate : (s.clearDatapath).dstate = .seek := rfl
@[simp] theorem State.clearDatapath_rxpay : (s.clearDatapath).rxpay = [] := rfl
@[simp] theorem State.clearDatapath_lastout : (s.clearDatapath).lastout = 0 := rfl
@[simp] theorem State.clearDatapath_resync : (s.clearDatapath).resync = 0 := rfl
@[simp] theorem State.clearDatapath_damaged : (s.clearDatapath).damaged = 0 := rfl
@[simp] theorem State.clearDatapath_cmd : (s.clearDatapath).cmd = s.cmd := rfl
@[simp] theorem State.clearDatapath_resp : (s.clearDatapath).resp = s.resp := rfl

@[simp] theorem State.resetBlock_params : (s.resetBlock).params = s.params := rfl
@[simp] theorem State.resetBlock_cfg : (s.resetBlock).cfg = Cfg.reset := rfl
@[simp] theorem State.resetBlock_cfgValid : (s.resetBlock).cfgValid = false := rfl
@[simp] theorem State.resetBlock_cfgErr : (s.resetBlock).cfgErr = 0 := rfl
@[simp] theorem State.resetBlock_engcrc : (s.resetBlock).engcrc = 0 := rfl
@[simp] theorem State.resetBlock_engpar : (s.resetBlock).engpar = false := rfl
@[simp] theorem State.resetBlock_txinf : (s.resetBlock).txinf = false := rfl
@[simp] theorem State.resetBlock_txcnt : (s.resetBlock).txcnt = 0 := rfl
@[simp] theorem State.resetBlock_txcrc : (s.resetBlock).txcrc = 0 := rfl
@[simp] theorem State.resetBlock_txpar : (s.resetBlock).txpar = false := rfl
@[simp] theorem State.resetBlock_txq : (s.resetBlock).txq = [] := rfl
@[simp] theorem State.resetBlock_rxbuf : (s.resetBlock).rxbuf = [] := rfl
@[simp] theorem State.resetBlock_dstate : (s.resetBlock).dstate = .seek := rfl
@[simp] theorem State.resetBlock_rxpay : (s.resetBlock).rxpay = [] := rfl
@[simp] theorem State.resetBlock_lastout : (s.resetBlock).lastout = 0 := rfl
@[simp] theorem State.resetBlock_resync : (s.resetBlock).resync = 0 := rfl
@[simp] theorem State.resetBlock_damaged : (s.resetBlock).damaged = 0 := rfl
@[simp] theorem State.resetBlock_cmd : (s.resetBlock).cmd = s.cmd := rfl
@[simp] theorem State.resetBlock_resp : (s.resetBlock).resp = s.resp := rfl

@[simp] theorem State.respond_eq (st : Status) (x : Byte) (v : Half) :
    s.respond st x v = .next (s.emit (respWord st x v)) := rfl

@[simp] theorem State.raise_eq (st : Status) : s.raise st = .next (s.emit (respWord st 0 0)) := rfl

end Sys2Proof.Machine
end

