-- ==== Sys2Proof/Laws/Config.lean ====
section
/-! SUPPORT. The configuration: register numbers, the fields of CTRL, the reserved set, and what each check
of 40_control.md R86 says of a configuration that passes them all. -/

namespace Sys2Proof.Machine

@[simp] theorem CfgReg.ofNumber_number (r : CfgReg) : CfgReg.ofNumber r.number = some r := by cases r <;> decide

theorem CfgReg.number_of_ofNumber {a : Byte} {r : CfgReg} (h : CfgReg.ofNumber a = some r) : r.number = a := by
  have := List.find?_some h; simpa using this

/-- A number above FMAX's names no RW register (R23, R83). -/
theorem CfgReg.ofNumber_of_above {a : Byte} (h : 8 < a.toNat) : CfgReg.ofNumber a = none := by
  cases hr : CfgReg.ofNumber a with
  | none => rfl
  | some r =>
    have := CfgReg.number_of_ofNumber hr
    subst this; revert h; cases r <;> decide

@[simp] theorem View.ofNumber_number (v : View) : View.ofNumber v.number = some v := by cases v <;> decide

theorem View.number_of_ofNumber {a : Byte} {v : View} (h : View.ofNumber a = some v) : v.number = a := by
  have := List.find?_some h; simpa using this

/-- Writing one register leaves every other as it was (R82). -/
theorem Cfg.read_write_ne (c : Cfg) (d : Half) {r q : CfgReg} (h : q ≠ r) : (c.write r d).read q = c.read q := by
  cases r <;> cases q <;> first | rfl | exact absurd rfl h

theorem Cfg.scheme_eq_crc {c : Cfg} : c.scheme = .crc ↔ c.ctrl[0] = true := by
  unfold Cfg.scheme; split <;> simp_all

theorem Cfg.scheme_eq_parity {c : Cfg} : c.scheme = .parity ↔ c.ctrl[0] = false := by
  unfold Cfg.scheme; split <;> simp_all

theorem Cfg.codePos_eq_afterStop {c : Cfg} : c.codePos = .afterStop ↔ c.ctrl[1] = true := by
  unfold Cfg.codePos; split <;> simp_all

theorem Cfg.codePos_eq_beforeStop {c : Cfg} : c.codePos = .beforeStop ↔ c.ctrl[1] = false := by
  unfold Cfg.codePos; split <;> simp_all

theorem Cfg.isDelimiter_iff (c : Cfg) (b : Byte) :
    c.isDelimiter b = true ↔ b = c.start ∨ b = c.stop ∨ b = c.esc := by
  simp [Cfg.isDelimiter, or_assoc]

/-- A delimiter is reserved in both schemes (R90). -/
theorem Cfg.isReserved_of_isDelimiter {c : Cfg} {b : Byte} (h : c.isDelimiter b = true) : c.isReserved b = true := by
  unfold Cfg.isReserved; split <;> simp [h]

/-- A byte that is not reserved is no delimiter. -/
theorem Cfg.ne_delimiters {c : Cfg} {b : Byte} (h : ¬ c.isReserved b = true) :
    b ≠ c.start ∧ b ≠ c.stop ∧ b ≠ c.esc := by
  have : ¬ c.isDelimiter b = true := fun e => h (Cfg.isReserved_of_isDelimiter e)
  simpa [Cfg.isDelimiter_iff] using this

theorem Cfg.degreeMismatch_iff (c : Cfg) : c.degreeMismatch = true ↔
    (c.gen.getLsbD c.deg.toNat = false ∨ c.gen.toNat / 2 ^ (c.deg.toNat + 1) ≠ 0) := by
  unfold Cfg.degreeMismatch
  have : (c.gen >>> (c.deg.toNat + 1) != 0) = true ↔ c.gen.toNat / 2 ^ (c.deg.toNat + 1) ≠ 0 := by
    rw [bne_iff_ne, ne_eq, ← BitVec.toNat_inj]
    simp [BitVec.toNat_ushiftRight, Nat.shiftRight_eq_div_pow]
  simp only [Bool.or_eq_true, this, Bool.not_eq_true']

/-- A check number fits (R31). -/
theorem Cfg.firstFailedCheck_le (c : Cfg) : c.firstFailedCheck.toNat ≤ 7 := by
  unfold Cfg.firstFailedCheck; repeat' split
  all_goals decide

/-- Check 1 (R86). -/
theorem Cfg.delimiters_of_valid {c : Cfg} (h : c.firstFailedCheck = 0) :
    c.start ≠ c.stop ∧ c.start ≠ c.esc ∧ c.stop ≠ c.esc := by
  unfold Cfg.firstFailedCheck at h
  split at h
  · exact absurd h (by decide)
  · rename_i hc; simpa [Cfg.delimitersClash, and_assoc] using hc

/-- Check 2 (R86). -/
theorem Cfg.fmax_of_valid {c : Cfg} (h : c.firstFailedCheck = 0) : 1 ≤ c.fmax.toNat := by
  unfold Cfg.firstFailedCheck at h
  split at h
  · exact absurd h (by decide)
  · split at h
    · exact absurd h (by decide)
    · rename_i hf
      rcases Nat.eq_zero_or_pos c.fmax.toNat with h0 | h0
      · exact absurd (BitVec.eq_of_toNat_eq (by simpa using h0)) hf
      · exact h0

/-- Checks 3 and 4 (R86). -/
theorem Cfg.markers_of_valid {c : Cfg} (h : c.firstFailedCheck = 0) (hs : c.scheme = .parity) :
    c.evenmk ≠ c.oddmk ∧ ¬ c.isDelimiter c.evenmk = true ∧ ¬ c.isDelimiter c.oddmk = true := by
  unfold Cfg.firstFailedCheck at h
  rw [hs] at h
  repeat' split at h
  all_goals first | exact absurd h (by decide) | simp_all

/-- Checks 5, 6 and 7 (R86). -/
theorem Cfg.generator_of_valid {c : Cfg} (h : c.firstFailedCheck = 0) (hs : c.scheme = .crc) :
    1 ≤ c.deg.toNat ∧ c.deg.toNat ≤ 8 ∧ c.gen.getLsbD c.deg.toNat = true ∧
      c.gen.toNat / 2 ^ (c.deg.toNat + 1) = 0 ∧ c.gen.getLsbD 0 = true := by
  have key : c.degreeOutOfRange = false ∧ ¬ c.degreeMismatch = true ∧ c.gen[0] = true := by
    unfold Cfg.firstFailedCheck at h
    rw [hs] at h
    repeat' split at h
    all_goals first | exact absurd h (by decide) | simp_all
  obtain ⟨h5, h6, h7⟩ := key
  rw [Cfg.degreeMismatch_iff] at h6
  simp only [Cfg.degreeOutOfRange, Bool.or_eq_false_iff, decide_eq_false_iff_not] at h5
  simp only [ne_eq, not_or, Bool.not_eq_false, not_not] at h6
  exact ⟨by omega, by omega, h6.1, h6.2, h7⟩

end Sys2Proof.Machine
end

