-- ==== Sys2Proof/Laws/Decode.lean ====
section
/-! SUPPORT. The fields of a command word, the mask of a format, and one lemma each for `decode` and `encode`
that says all they can do (30_encoding.md R67, R68, R72). -/

namespace Sys2Proof

theorem or_of_fields (a b c : Nat) (hb : b < 2 ^ 8) (hc : c < 2 ^ 16) :
    a <<< 24 ||| b <<< 16 ||| c = a * 2 ^ 24 + b * 2 ^ 16 + c := by
  have h1 : a <<< 24 ||| b <<< 16 = (a <<< 8 + b) <<< 16 := by
    rw [Nat.shiftLeft_add_eq_or_of_lt hb, Nat.shiftLeft_or_distrib, ← Nat.shiftLeft_add]
  rw [h1, ← Nat.shiftLeft_add_eq_or_of_lt hc, Nat.shiftLeft_eq, Nat.shiftLeft_eq]
  omega

theorem byte_shift_toNat (x : Byte) (k : Nat) (hk : k ≤ 24) : (x.setWidth 32 <<< k).toNat = x.toNat <<< k := by
  have h := x.isLt
  have hp : x.toNat * 2 ^ k < 2 ^ 32 := by
    calc x.toNat * 2 ^ k < 2 ^ 8 * 2 ^ k := Nat.mul_lt_mul_of_pos_right h (by positivity)
      _ = 2 ^ (8 + k) := by rw [Nat.pow_add]
      _ ≤ 2 ^ 32 := Nat.pow_le_pow_right (by decide) (by omega)
  rw [BitVec.toNat_shiftLeft, BitVec.toNat_setWidth, Nat.mod_eq_of_lt (a := x.toNat) (by omega),
    Nat.shiftLeft_eq, Nat.mod_eq_of_lt hp]

/-- The number a word put together from its fields is (R67). -/
theorem wordOf_toNat (o : Op) (a : Byte) (d : Half) :
    (wordOf o a d).toNat = o.code.toNat * 2 ^ 24 + a.toNat * 2 ^ 16 + d.toNat := by
  have h3 := d.isLt
  rw [wordOf, BitVec.toNat_or, BitVec.toNat_or, byte_shift_toNat _ _ (by decide), byte_shift_toNat _ _ (by decide),
    BitVec.toNat_setWidth, Nat.mod_eq_of_lt (a := d.toNat) (by omega), or_of_fields _ _ _ a.isLt h3]

@[simp] theorem opField_wordOf (o : Op) (a : Byte) (d : Half) : opField (wordOf o a d) = o.code := by
  have h2 := a.isLt; have h3 := d.isLt
  apply BitVec.eq_of_toNat_eq
  simp only [opField, BitVec.extractLsb'_toNat, wordOf_toNat, Nat.shiftRight_eq_div_pow]; omega

@[simp] theorem aField_wordOf (o : Op) (a : Byte) (d : Half) : aField (wordOf o a d) = a := by
  have h2 := a.isLt; have h3 := d.isLt
  apply BitVec.eq_of_toNat_eq
  simp only [aField, BitVec.extractLsb'_toNat, wordOf_toNat, Nat.shiftRight_eq_div_pow]; omega

@[simp] theorem dField_wordOf (o : Op) (a : Byte) (d : Half) : dField (wordOf o a d) = d := by
  have h2 := a.isLt; have h3 := d.isLt
  apply BitVec.eq_of_toNat_eq
  simp only [dField, BitVec.extractLsb'_toNat, wordOf_toNat, Nat.shiftRight_eq_div_pow]; omega

/-- The byte operand is the low half of the data field (R67). -/
theorem bField_eq (w : Word) : bField w = (dField w).setWidth 8 := by
  apply BitVec.eq_of_toNat_eq
  simp only [bField, dField, BitVec.extractLsb'_toNat, BitVec.toNat_setWidth, Nat.shiftRight_eq_div_pow]; omega

theorem toNat_fields (w : Word) :
    w.toNat = (opField w).toNat * 2 ^ 24 + (aField w).toNat * 2 ^ 16 + (dField w).toNat := by
  have := w.isLt
  simp only [opField, aField, dField, BitVec.extractLsb'_toNat, Nat.shiftRight_eq_div_pow]; omega

/-- A word is its three fields. -/
theorem eq_of_fields {w v : Word} (h1 : opField w = opField v) (h2 : aField w = aField v)
    (h3 : dField w = dField v) : w = v := by
  apply BitVec.eq_of_toNat_eq; rw [toNat_fields w, toNat_fields v, h1, h2, h3]

theorem opField_and (w m : Word) : opField (w &&& m) = opField w &&& opField m := by
  simp [opField, BitVec.extractLsb'_and]

theorem aField_and (w m : Word) : aField (w &&& m) = aField w &&& aField m := by
  simp [aField, BitVec.extractLsb'_and]

theorem dField_and (w m : Word) : dField (w &&& m) = dField w &&& dField m := by
  simp [dField, BitVec.extractLsb'_and]

/-- What a format requires of the fields A and D (R68). -/
def Format.leavesZero (f : Format) (a : Byte) (d : Half) : Prop :=
  match f with
  | .none => a = 0 ∧ d = 0
  | .byte => a = 0 ∧ d &&& 0xFF00#16 = 0
  | .csr => d = 0
  | .csrData => True
  | .index => a = 0

theorem code_shift (o : Op) : o.code.setWidth 32 <<< 24 = wordOf o 0 0 := by cases o <;> decide

/-- A masked word equals the row's match exactly when the opcode and the zero fields agree (R68, R72). -/
theorem mask_eq_match_iff (w : Word) (o : Op) : w &&& o.format.mask = o.code.setWidth 32 <<< 24 ↔
    opField w = o.code ∧ o.format.leavesZero (aField w) (dField w) := by
  rw [code_shift]
  have e : w &&& o.format.mask = wordOf o 0 0 ↔ opField w &&& opField o.format.mask = o.code ∧
      aField w &&& aField o.format.mask = 0 ∧ dField w &&& dField o.format.mask = 0 := by
    rw [← opField_and, ← aField_and, ← dField_and]
    constructor
    · intro h; rw [h]; simp
    · rintro ⟨h1, h2, h3⟩
      exact eq_of_fields (by simp [h1]) (by simp [h2]) (by simp [h3])
  have e1 : opField o.format.mask = BitVec.allOnes 8 := by cases o <;> decide
  rw [e, e1, BitVec.and_allOnes]
  refine and_congr_right fun _ => ?_
  generalize aField w = a; generalize dField w = d
  have key : ∀ f : Format, (a &&& aField f.mask = 0 ∧ d &&& dField f.mask = 0) ↔ f.leavesZero a d := by
    intro f
    have ha : a &&& 0xFF#8 = a := BitVec.and_allOnes
    have hd : d &&& 0xFFFF#16 = d := BitVec.and_allOnes
    cases f <;> simp [Format.leavesZero, Format.mask, aField, dField, ha, hd]
  exact key _

/-- The opcodes of R71 are distinct: each is found again. -/
@[simp] theorem ofCode_code (o : Op) : Op.ofCode o.code = some o := by cases o <;> decide

theorem code_of_ofCode {b : Byte} {o : Op} (h : Op.ofCode b = some o) : o.code = b := by
  have := List.find?_some h; simpa using this

/-- All that `decode` can answer with a command. -/
theorem decode_eq_ok_iff (w : Word) (i : Instr) : decode w = .ok i ↔
    ∃ o : Op, opField w = o.code ∧ o.format.leavesZero (aField w) (dField w) ∧ i = o.build w := by
  unfold decode
  constructor
  · intro h
    split at h
    · cases h
    · rename_i o ho
      split at h
      · rename_i hm
        exact ⟨o, ((mask_eq_match_iff w o).1 hm).1, ((mask_eq_match_iff w o).1 hm).2, by cases h; rfl⟩
      · cases h
  · rintro ⟨o, h1, h2, rfl⟩
    rw [h1, ofCode_code]
    simp only
    rw [if_pos ((mask_eq_match_iff w o).2 ⟨h1, h2⟩)]

/-- A byte operand leaves D[15:8] zero. -/
theorem byte_leaves_zero (b : Byte) : b.setWidth 16 &&& 0xFF00#16 = 0 := by
  apply BitVec.eq_of_getLsbD_eq; intro i hi
  have h2 : ∀ i < 8, (0xFF00#16).getLsbD i = false := by decide
  by_cases h : i < 8
  · simp [h2 i h]
  · simp [BitVec.getLsbD_of_ge b i (by omega)]

/-- All that `encode` does: the opcode of the command, and fields its format allows. -/
theorem encode_eq_wordOf (i : Instr) : ∃ a d, encode i = wordOf i.op a d ∧ i.op.format.leavesZero a d ∧
    i.op.build (wordOf i.op a d) = i := by
  cases i <;> exact ⟨_, _, rfl, by simp [Format.leavesZero, Instr.op, Op.format, byte_leaves_zero], by
    simp [Op.build, Instr.op, bField_eq]⟩

end Sys2Proof
end

