-- ==== Sys2Proof/Laws/Engine.lean ====
section
/-! SUPPORT. Stuff over a list (41_codec.md R91, R94), the running code (42_error_engine.md R97 to R104), the
chunks of a payload and what the end of TX_BYTE and TX_END can do (43_framer.md R112, R118, R120). -/

namespace Sys2Proof.Machine

@[simp] theorem Cfg.stuffAll_nil (c : Cfg) : c.stuffAll [] = [] := rfl

@[simp] theorem Cfg.stuffAll_cons (c : Cfg) (b : Byte) (p : List Byte) :
    c.stuffAll (b :: p) = c.stuff b ++ c.stuffAll p := by simp [Cfg.stuffAll]

@[simp] theorem Cfg.stuffAll_append (c : Cfg) (p q : List Byte) :
    c.stuffAll (p ++ q) = c.stuffAll p ++ c.stuffAll q := by simp [Cfg.stuffAll]

theorem Cfg.stuff_length_le (c : Cfg) (b : Byte) : (c.stuff b).length ≤ 2 := by
  unfold Cfg.stuff; split <;> simp

/-- Every step of the division leaves fewer than d bits (R101). -/
theorem Cfg.crcStep_lt (c : Cfg) (r : Byte) (bit : Bool) : (c.crcStep r bit).toNat < 2 ^ c.deg.toNat := by
  unfold Cfg.crcStep
  simp only [BitVec.toNat_and, BitVec.toNat_ofNat]
  refine lt_of_le_of_lt Nat.and_le_right (lt_of_le_of_lt (Nat.mod_le _ _) ?_)
  have := Nat.two_pow_pos c.deg.toNat; omega

/-- So does every byte. -/
theorem Cfg.crcByte_lt (c : Cfg) (r b : Byte) : (c.crcByte r b).toNat < 2 ^ c.deg.toNat := c.crcStep_lt _ _

@[simp] theorem Cfg.crcAbsorb_nil (c : Cfg) : c.crcAbsorb [] = 0 := rfl

@[simp] theorem Cfg.crcAbsorb_snoc (c : Cfg) (p : List Byte) (b : Byte) :
    c.crcAbsorb (p ++ [b]) = c.crcByte (c.crcAbsorb p) b := by simp [Cfg.crcAbsorb]

/-- A remainder that fits stays one that fits when bits are shifted in. -/
theorem Cfg.foldl_crcStep_lt (c : Cfg) (l : List Bool) : ∀ r : Byte, r.toNat < 2 ^ c.deg.toNat →
    (l.foldl c.crcStep r).toNat < 2 ^ c.deg.toNat := by
  induction l with
  | nil => exact fun _ h => h
  | cons b l ih => exact fun r _ => ih _ (c.crcStep_lt r b)

theorem Cfg.crcAbsorb_lt (c : Cfg) (p : List Byte) : (c.crcAbsorb p).toNat < 2 ^ c.deg.toNat := by
  induction p using List.reverseRecOn with
  | nil => exact Nat.two_pow_pos _
  | append_singleton p b _ => rw [Cfg.crcAbsorb_snoc]; exact c.crcByte_lt _ _

theorem Cfg.crcCode_lt (c : Cfg) (p : List Byte) : (c.crcCode p).toNat < 2 ^ c.deg.toNat :=
  c.foldl_crcStep_lt _ _ (c.crcAbsorb_lt p)

@[simp] theorem parityBit_nil : parityBit [] = false := rfl

theorem parityBit_snoc (p : List Byte) (b : Byte) : parityBit (p ++ [b]) = (parityBit p ^^ oddOnes b) := by
  simp only [parityBit, oddOnes, List.map_append, List.map_cons, List.map_nil, List.sum_append, List.sum_cons,
    List.sum_nil, Nat.add_zero]
  generalize (p.map popcount).sum = x
  generalize popcount b = y
  rcases Nat.mod_two_eq_zero_or_one x with h | h <;> rcases Nat.mod_two_eq_zero_or_one y with h' | h' <;>
    simp [h, h', Nat.add_mod]

/-- The code of the whole list is the code of the running state over it (R104, R110, R117). -/
theorem Cfg.codeOf_eq_runningCode (c : Cfg) (p : List Byte) :
    c.codeOf p = c.runningCode (c.crcAbsorb p) (parityBit p) := by
  unfold Cfg.codeOf Cfg.runningCode; cases c.scheme <;> rfl

theorem Cfg.closeBytes_length (c : Cfg) (crc : Byte) (par : Bool) :
    2 ≤ (c.closeBytes crc par).length ∧ (c.closeBytes crc par).length ≤ 3 := by
  unfold Cfg.closeBytes; cases c.codePos <;> dsimp only
  · split <;> simp
  · simp

/-- The trailer of a chunk is CloseBytes over its running state (R114, R117). -/
theorem Cfg.trailerOf_codeOf (c : Cfg) (p : List Byte) :
    c.trailerOf (c.codeOf p) = c.closeBytes (c.crcAbsorb p) (parityBit p) := by
  rw [Cfg.codeOf_eq_runningCode]
  unfold Cfg.trailerOf Cfg.closeBytes Cfg.codeBytes
  cases hp : c.codePos with
  | afterStop => rfl
  | beforeStop => dsimp only; rw [apply_ite (fun x => x ++ [c.stop])]; simp only [true_and]; rfl

/-- The bytes do not fit: nothing is written (R118, R120). -/
theorem State.sendBytes_of_full {s : State} {out : List Byte} {inf : Bool} {cnt : Half} {crc : Byte} {par : Bool}
    (h : s.txFree < out.length) : s.sendBytes out inf cnt crc par = .next (s.emit (respWord .efull 0 0)) := by
  unfold State.sendBytes; rw [if_pos h]; rfl

/-- The bytes fit: they are pushed and the framer's state is stored. -/
theorem State.sendBytes_of_fits {s : State} {out : List Byte} {inf : Bool} {cnt : Half} {crc : Byte} {par : Bool}
    (h : out.length ≤ s.txFree) : s.sendBytes out inf cnt crc par =
      .next (((s.setTxq (s.txq ++ out)).setTx inf cnt crc par).emit (respWord .ok (BitVec.ofNat 8 out.length) 0)) := by
  unfold State.sendBytes; rw [if_neg (by omega)]; rfl

theorem chunksFuel_eq {f : Nat} (hf : 1 ≤ f) : ∀ (n : Nat) (p : List Byte), p.length ≤ n →
    chunksFuel f n p = chunksFuel f p.length p := by
  intro n
  induction n using Nat.strong_induction_on with
  | _ n ih =>
    intro p hp
    cases p with
    | nil => cases n <;> rfl
    | cons b p =>
      cases n with
      | zero => simp at hp
      | succ n =>
        simp only [List.length_cons, chunksFuel]
        have hl : ((b :: p).drop f).length ≤ p.length := by simp [List.length_drop]; omega
        rw [ih n (by omega) _ (by simp at hp; omega)]
        congr 1
        by_cases h : p.length = n
        · subst h; exact (ih p.length (by omega) _ hl).symm
        · exact (ih p.length (by simp at hp; omega) _ hl).symm

@[simp] theorem chunks_nil (f : Nat) : chunks f [] = [] := rfl

/-- Chunks by their first slice (R112). -/
theorem chunks_of_ne_nil {f : Nat} (hf : 1 ≤ f) {p : List Byte} (hp : p ≠ []) :
    chunks f p = p.take f :: chunks f (p.drop f) := by
  cases p with
  | nil => exact absurd rfl hp
  | cons b p =>
    unfold chunks
    simp only [List.length_cons, chunksFuel]
    rw [chunksFuel_eq hf p.length _ (by simp [List.length_drop]; omega)]

/-- A full slice first. -/
theorem chunks_append_of_length {f : Nat} (hf : 1 ≤ f) {a : List Byte} (ha : a.length = f) (p : List Byte) :
    chunks f (a ++ p) = a :: chunks f p := by
  subst ha
  rw [chunks_of_ne_nil hf (by intro e; simp at e; rw [e.1] at hf; simp at hf)]
  simp

/-- A payload of at most F bytes is one slice. -/
theorem chunks_of_length_le {f : Nat} {a : List Byte} (h1 : a ≠ []) (h2 : a.length ≤ f) : chunks f a = [a] := by
  have : 1 ≤ f := by have := List.length_pos_iff.2 h1; omega
  rw [chunks_of_ne_nil this h1, List.take_of_length_le h2, List.drop_eq_nil_of_le h2]; rfl

end Sys2Proof.Machine
end

