-- ==== Sys2Proof/Laws/Deframer.lean ====
section
/-! SUPPORT. The loop of 44_deframer.md R125 one byte at a time, its induction principle, and how the number of
resynchronizations enters it. -/

namespace Sys2Proof.Machine

@[simp] theorem scanAcc_nil (c : Cfg) (acc entry : List Byte) (n : Nat) :
    scanAcc c acc entry n [] = ⟨.incomplete, [], .acc, entry, n⟩ := by unfold scanAcc; rfl

/-- A dangling ESC (R127). -/
theorem scanAcc_dangling (c : Cfg) (acc entry : List Byte) (n : Nat) :
    scanAcc c acc entry n [c.esc] = ⟨.incomplete, [], .acc, entry, n⟩ := by unfold scanAcc; rw [if_pos rfl]

/-- An escaped byte is data (R125). -/
theorem scanAcc_escaped (c : Cfg) (acc entry : List Byte) (n : Nat) (x : Byte) (rest : List Byte) :
    scanAcc c acc entry n (c.esc :: x :: rest) = scanAcc c (acc ++ [x]) entry n rest := by
  rw [scanAcc, if_pos rfl]

theorem scanAcc_unescaped {c : Cfg} {b : Byte} (h : b ≠ c.esc) (acc entry : List Byte) (n : Nat) (rest : List Byte) :
    scanAcc c acc entry n (b :: rest) = if b = c.start then scanAcc c [] rest (n + 1) rest
      else if b = c.stop then closeFrame c acc entry n rest else scanAcc c (acc ++ [b]) entry n rest := by
  cases rest <;> (rw [scanAcc.eq_def]; simp only [if_neg h])

/-- An unescaped START (R128). -/
theorem scanAcc_start {c : Cfg} (h : c.start ≠ c.esc) (acc entry : List Byte) (n : Nat) (rest : List Byte) :
    scanAcc c acc entry n (c.start :: rest) = scanAcc c [] rest (n + 1) rest := by
  rw [scanAcc_unescaped h, if_pos rfl]

/-- An unescaped STOP (R129, R130). -/
theorem scanAcc_stop {c : Cfg} (h1 : c.stop ≠ c.esc) (h2 : c.stop ≠ c.start) (acc entry : List Byte) (n : Nat)
    (rest : List Byte) : scanAcc c acc entry n (c.stop :: rest) = closeFrame c acc entry n rest := by
  rw [scanAcc_unescaped h1, if_neg h2, if_pos rfl]

/-- Any other byte is data. -/
theorem scanAcc_data {c : Cfg} {b : Byte} (h1 : b ≠ c.esc) (h2 : b ≠ c.start) (h3 : b ≠ c.stop)
    (acc entry : List Byte) (n : Nat) (rest : List Byte) :
    scanAcc c acc entry n (b :: rest) = scanAcc c (acc ++ [b]) entry n rest := by
  rw [scanAcc_unescaped h1, if_neg h2, if_neg h3]

/-- Induction along the loop of R125: its six cases. -/
theorem scanAcc_induction {P : List Byte → List Byte → Nat → List Byte → Prop} (c : Cfg)
    (nil : ∀ acc entry n, P acc entry n [])
    (dangling : ∀ acc entry n, P acc entry n [c.esc])
    (escaped : ∀ acc entry n x rest, P (acc ++ [x]) entry n rest → P acc entry n (c.esc :: x :: rest))
    (start : ∀ acc entry n rest, c.start ≠ c.esc → P [] rest (n + 1) rest → P acc entry n (c.start :: rest))
    (stop : ∀ acc entry n rest, c.stop ≠ c.esc → c.stop ≠ c.start → P acc entry n (c.stop :: rest))
    (data : ∀ acc entry n b rest, b ≠ c.esc → b ≠ c.start → b ≠ c.stop → P (acc ++ [b]) entry n rest →
      P acc entry n (b :: rest)) :
    ∀ acc entry n l, P acc entry n l := by
  have : ∀ k, ∀ l : List Byte, l.length ≤ k → ∀ acc entry n, P acc entry n l := by
    intro k
    induction k with
    | zero =>
      intro l hl acc entry n
      cases l with
      | nil => exact nil _ _ _
      | cons => simp at hl
    | succ k ih =>
      intro l hl acc entry n
      cases l with
      | nil => exact nil _ _ _
      | cons b l =>
        simp at hl
        by_cases h1 : b = c.esc
        · subst h1
          cases l with
          | nil => exact dangling _ _ _
          | cons x l => simp at hl; exact escaped _ _ _ _ _ (ih l (by omega) _ _ _)
        · by_cases h2 : b = c.start
          · subst h2; exact start _ _ _ _ h1 (ih l hl _ _ _)
          · by_cases h3 : b = c.stop
            · subst h3; exact stop _ _ _ _ h1 h2
            · exact data _ _ _ _ _ h1 h2 h3 (ih l hl _ _ _)
  exact fun acc entry n l => this l.length l le_rfl acc entry n

/-- An attempt with k resynchronizations more. -/
def Attempt.plus (a : Attempt) (k : Nat) : Attempt := { a with resyncs := a.resyncs + k }

theorem verdict_plus (c : Cfg) (pay : List Byte) (code : Byte) (rest : List Byte) (n k : Nat) :
    verdict c pay code rest (n + k) = (verdict c pay code rest n).plus k := by
  unfold verdict; split <;> rfl

theorem closeFrame_plus (c : Cfg) (acc entry : List Byte) (n : Nat) (rest : List Byte) (k : Nat) :
    closeFrame c acc entry (n + k) rest = (closeFrame c acc entry n rest).plus k := by
  unfold closeFrame; cases c.codePos
  · dsimp only; cases acc.getLast? <;> dsimp only
    · rfl
    · exact verdict_plus _ _ _ _ _ _
  · cases rest
    · rfl
    · exact verdict_plus _ _ _ _ _ _

/-- The count of resynchronizations is only carried along. -/
theorem scanAcc_plus (c : Cfg) (acc entry : List Byte) (n : Nat) (l : List Byte) :
    ∀ k, scanAcc c acc entry (n + k) l = (scanAcc c acc entry n l).plus k := by
  refine scanAcc_induction
    (P := fun acc entry n l => ∀ k, scanAcc c acc entry (n + k) l = (scanAcc c acc entry n l).plus k)
    c ?_ ?_ ?_ ?_ ?_ ?_ acc entry n l
  · intro acc entry n k; simp only [scanAcc_nil]; rfl
  · intro acc entry n k; simp only [scanAcc_dangling]; rfl
  · intro acc entry n x rest ih k; simp only [scanAcc_escaped]; exact ih k
  · intro acc entry n rest h ih k; simp only [scanAcc_start h]; rw [← ih k]; congr 1; omega
  · intro acc entry n rest h1 h2 k; simp only [scanAcc_stop h1 h2]; exact closeFrame_plus _ _ _ _ _ _
  · intro acc entry n b rest h1 h2 h3 ih k; simp only [scanAcc_data h1 h2 h3]; exact ih k

@[simp] theorem scan_acc (c : Cfg) (buf : List Byte) : scan c .acc buf = scanAcc c [] buf 0 buf := rfl

/-- The bytes SEEK looks through hold no START, or are split at the first one (R126). -/
theorem split_at_start (c : Cfg) (buf : List Byte) :
    c.start ∉ buf ∨ ∃ g rest, buf = g ++ c.start :: rest ∧ c.start ∉ g := by
  induction buf with
  | nil => left; simp
  | cons b buf ih =>
    by_cases h : b = c.start
    · right; exact ⟨[], buf, by simp [h], by simp⟩
    · rcases ih with ih | ⟨g, rest, rfl, hg⟩
      · left; simp [ih, Ne.symm h]
      · right; exact ⟨b :: g, rest, by simp, by simp [hg, Ne.symm h]⟩

/-- The outcome codes of R124 tell the outcomes apart. -/
theorem RxOutcome.code_inj {a b : RxOutcome} (h : a.code = b.code) : a = b := by
  cases a <;> cases b <;> first | rfl | exact absurd h (by decide)

end Sys2Proof.Machine
end

