-- ==== Sys2Proof/Laws/PerInstr.lean ====
section
/-! SUPPORT. The family EncodesItsRow: the word of every command has its row's opcode, and zeros where its format
requires them (30_encoding.md R68, R71, R78). One lemma per command. -/

namespace Sys2Proof.Laws.EncodesItsRow

/-- The masked word of a command is its row's match. -/
def Statement (i : Instr) : Prop := encode i &&& i.op.format.mask = i.op.code.setWidth 32 <<< 24

/-- What each lemma of the family comes down to: the fields A and D. -/
theorem of_fields (o : Op) (a : Byte) (d : Half) (h : o.format.leavesZero a d) :
    wordOf o a d &&& o.format.mask = o.code.setWidth 32 <<< 24 :=
  (mask_eq_match_iff _ _).2 ⟨opField_wordOf o a d, by simpa using h⟩

theorem nop : Statement .nop := of_fields .nop 0 0 ⟨rfl, rfl⟩
theorem cfgWr (a : Byte) (d : Half) : Statement (.cfgWr a d) := of_fields .cfgWr a d trivial
theorem csrRd (a : Byte) : Statement (.csrRd a) := of_fields .csrRd a 0 rfl
theorem cfgCommit : Statement .cfgCommit := of_fields .cfgCommit 0 0 ⟨rfl, rfl⟩
theorem softReset : Statement .softReset := of_fields .softReset 0 0 ⟨rfl, rfl⟩
theorem stuff (b : Byte) : Statement (.stuff b) := of_fields .stuff 0 _ ⟨rfl, byte_leaves_zero b⟩
theorem engClr : Statement .engClr := of_fields .engClr 0 0 ⟨rfl, rfl⟩
theorem engByte (b : Byte) : Statement (.engByte b) := of_fields .engByte 0 _ ⟨rfl, byte_leaves_zero b⟩
theorem engCompute : Statement .engCompute := of_fields .engCompute 0 0 ⟨rfl, rfl⟩
theorem engVerify (b : Byte) : Statement (.engVerify b) := of_fields .engVerify 0 _ ⟨rfl, byte_leaves_zero b⟩
theorem txByte (b : Byte) : Statement (.txByte b) := of_fields .txByte 0 _ ⟨rfl, byte_leaves_zero b⟩
theorem txEnd : Statement .txEnd := of_fields .txEnd 0 0 ⟨rfl, rfl⟩
theorem txPop : Statement .txPop := of_fields .txPop 0 0 ⟨rfl, rfl⟩
theorem rxFeed (b : Byte) : Statement (.rxFeed b) := of_fields .rxFeed 0 _ ⟨rfl, byte_leaves_zero b⟩
theorem rxExtract : Statement .rxExtract := of_fields .rxExtract 0 0 ⟨rfl, rfl⟩
theorem rxPrd (d : Half) : Statement (.rxPrd d) := of_fields .rxPrd 0 d rfl
theorem rxFlush : Statement .rxFlush := of_fields .rxFlush 0 0 ⟨rfl, rfl⟩

end Sys2Proof.Laws.EncodesItsRow
end

