-- ==== Sys2Proof/Laws/Response.lean ====
section
/-! SUPPORT. The fields of a response word (30_encoding.md R74, R75), and what the guard of R144 does. -/

namespace Sys2Proof.Machine

theorem code_shift_toNat (x : BitVec 4) : (x.setWidth 32 <<< 28).toNat = x.toNat <<< 28 := by
  have h := x.isLt
  have hp : x.toNat * 2 ^ 28 < 2 ^ 32 := by omega
  rw [BitVec.toNat_shiftLeft, BitVec.toNat_setWidth, Nat.mod_eq_of_lt (a := x.toNat) (by omega),
    Nat.shiftLeft_eq, Nat.mod_eq_of_lt hp]

/-- The number a response word is (R74). -/
theorem respWord_toNat (st : Status) (x : Byte) (v : Half) :
    (respWord st x v).toNat = st.code.toNat * 2 ^ 28 + x.toNat * 2 ^ 16 + v.toNat := by
  have h3 := v.isLt
  have e : st.code.toNat <<< 28 = (st.code.toNat * 16) <<< 24 := by simp only [Nat.shiftLeft_eq]; omega
  rw [respWord, BitVec.toNat_or, BitVec.toNat_or, code_shift_toNat, byte_shift_toNat _ _ (by decide),
    BitVec.toNat_setWidth, Nat.mod_eq_of_lt (a := v.toNat) (by omega), e, or_of_fields _ _ _ x.isLt h3]
  omega

/-- Bits 31:28 are the status code. -/
theorem respWord_status (st : Status) (x : Byte) (v : Half) : (respWord st x v).extractLsb' 28 4 = st.code := by
  have h2 := x.isLt; have h3 := v.isLt
  apply BitVec.eq_of_toNat_eq
  simp only [BitVec.extractLsb'_toNat, respWord_toNat, Nat.shiftRight_eq_div_pow]; omega

/-- Bits 23:16 are the auxiliary byte. -/
theorem respWord_aux (st : Status) (x : Byte) (v : Half) : (respWord st x v).extractLsb' 16 8 = x := by
  have h2 := x.isLt; have h3 := v.isLt
  apply BitVec.eq_of_toNat_eq
  simp only [BitVec.extractLsb'_toNat, respWord_toNat, Nat.shiftRight_eq_div_pow]; omega

/-- Bits 15:0 are the value. -/
theorem respWord_value (st : Status) (x : Byte) (v : Half) : (respWord st x v).extractLsb' 0 16 = v := by
  have h2 := x.isLt; have h3 := v.isLt
  apply BitVec.eq_of_toNat_eq
  simp only [BitVec.extractLsb'_toNat, respWord_toNat, Nat.shiftRight_eq_div_pow]; omega

theorem Status.code_inj {a b : Status} (h : a.code = b.code) : a = b := by
  cases a <;> cases b <;> first | rfl | exact absurd h (by decide)

theorem responseOk_respWord (st : Status) (x : Byte) (v : Half) :
    responseOk (respWord st x v) = true ↔ st = .ok := by
  unfold responseOk; rw [respWord_status]; cases st <;> simp [Status.code]

/-- The guard does nothing while a valid configuration is in force. -/
theorem needValid_of_valid {s : State} (h : s.cfgValid = true) (r : Result) : s.needValid r = r := by
  simp [State.needValid, h]

/-- The guard answers ECFG while none is in force. -/
theorem needValid_of_invalid {s : State} (h : s.cfgValid = false) (r : Result) :
    s.needValid r = .next (s.emit (respWord .ecfg 0 0)) := by
  simp [State.needValid, h]

/-- One command of a run that responded OK. -/
theorem okRun_cons_of_ok {i : Instr} {is : List Instr} {s t : State} {r : Word}
    (h : exec i s = .next (t.emit r)) (hr : responseOk r = true) :
    okRun (i :: is) s = (okRun is (t.emit r)).map (fun q => (r :: q.1, q.2)) := by
  simp [okRun, h, hr]

/-- All that a run of one command and more can be. -/
theorem okRun_cons_inv {i : Instr} {is : List Instr} {s t : State} {rs : List Word}
    (h : okRun (i :: is) s = some (rs, t)) :
    ∃ u r rs', exec i s = .next u ∧ u.resp.getLast? = some r ∧ responseOk r = true ∧
      okRun is u = some (rs', t) ∧ rs = r :: rs' := by
  unfold okRun at h
  cases he : exec i s with
  | next u =>
    rw [he] at h; simp only at h
    cases hr : u.resp.getLast? with
    | none => rw [hr] at h; cases h
    | some r =>
      rw [hr] at h; simp only at h
      split at h
      · rename_i hok
        cases ho : okRun is u with
        | none => rw [ho] at h; cases h
        | some q => rw [ho] at h; simp at h; exact ⟨u, r, q.1, rfl, hr, hok, by rw [ho, ← h.2], h.1.symm⟩
      · cases h
  | fault f => cases f
  | refused r => rw [he] at h; cases h

end Sys2Proof.Machine
end

