-- ==== Sys2Proof/Laws/Step.lean ====
section
/-! SUPPORT. What one step does, by the input it takes (00_scope.md R11), and the shape of every command's
result (30_encoding.md R74). -/

namespace Sys2Proof.Machine

theorem step_of_command {s : State} {w : Word} {rest : List HostInput} {i : Instr}
    (h : s.cmd = .command w :: rest) (hd : decode w = .ok i) : step s = exec i (s.setCmd rest) := by
  unfold step; rw [h]; simp only [hd]

theorem step_of_illegal {s : State} {w : Word} {rest : List HostInput} {e : IllegalWord}
    (h : s.cmd = .command w :: rest) (hd : decode w = .error e) :
    step s = .next ((s.setCmd rest).emit (respWord .illegal 0 0)) := by
  unfold step; rw [h]; simp only [hd]; rfl

theorem step_of_rst {s : State} {rest : List HostInput} (h : s.cmd = .rst :: rest) :
    step s = .next (s.setCmd rest).resetBlock := by
  unfold step; rw [h]; rfl

theorem step_of_idle {s : State} (h : s.cmd = []) : step s = .next s := by unfold step; rw [h]

/-- All that the end of TX_BYTE and TX_END can do to the ports and the parameters. -/
theorem sendBytes_ports (s : State) (out : List Byte) (inf : Bool) (cnt : Half) (crc : Byte) (par : Bool) :
    ∃ (t : State) (st : Status) (x : Byte) (v : Half), s.sendBytes out inf cnt crc par = .next t ∧
      t.resp = s.resp ++ [respWord st x v] ∧ t.cmd = s.cmd ∧ t.params = s.params := by
  by_cases h : out.length ≤ s.txFree
  · exact ⟨_, _, _, _, State.sendBytes_of_fits h, rfl, rfl, rfl⟩
  · exact ⟨_, _, _, _, State.sendBytes_of_full (by omega), rfl, rfl, rfl⟩

/-- The ports after the guard of R144. -/
theorem needValid_ports (s : State) (r : Result)
    (h : ∃ (t : State) (st : Status) (x : Byte) (v : Half), r = .next t ∧
      t.resp = s.resp ++ [respWord st x v] ∧ t.cmd = s.cmd ∧ t.params = s.params) :
    ∃ (t : State) (st : Status) (x : Byte) (v : Half), s.needValid r = .next t ∧
      t.resp = s.resp ++ [respWord st x v] ∧ t.cmd = s.cmd ∧ t.params = s.params := by
  cases hv : s.cfgValid with
  | true => rw [needValid_of_valid hv]; exact h
  | false => exact ⟨_, _, _, _, needValid_of_invalid hv r, rfl, rfl, rfl⟩

end Sys2Proof.Machine
end

