-- ==== Sys2Proof/Machine/AsmText.lean ====
section
/-! DEFINITION. The text of an assembly line (30_encoding.md R77, R79): from its characters to the commands it
stands for. Not part of a step; the spec's examples and programs are written in it. What R77 leaves open
(blanks, the case of letters) is DESIGN CHOICE, log entry 8. -/

namespace Sys2Proof.Machine

/-- The mnemonics of R71, letter for letter. -/
def mnemonicOf : Op → String
  | .nop => "NOP"
  | .cfgWr => "CFG_WR"
  | .csrRd => "CSR_RD"
  | .cfgCommit => "CFG_COMMIT"
  | .softReset => "SOFT_RESET"
  | .stuff => "STUFF"
  | .engClr => "ENG_CLR"
  | .engByte => "ENG_BYTE"
  | .engCompute => "ENG_COMPUTE"
  | .engVerify => "ENG_VERIFY"
  | .txByte => "TX_BYTE"
  | .txEnd => "TX_END"
  | .txPop => "TX_POP"
  | .rxFeed => "RX_FEED"
  | .rxExtract => "RX_EXTRACT"
  | .rxPrd => "RX_PRD"
  | .rxFlush => "RX_FLUSH"

/-- The names of the RW registers (R23). -/
def cfgRegName : CfgReg → String
  | .ctrl => "CTRL"
  | .start => "START"
  | .stop => "STOP"
  | .esc => "ESC"
  | .evenmk => "EVENMK"
  | .oddmk => "ODDMK"
  | .gen => "GEN"
  | .deg => "DEG"
  | .fmax => "FMAX"

/-- The names of the read-only registers (R23). -/
def viewName : View → String
  | .status => "STATUS"
  | .rxLevel => "RX_LEVEL"
  | .rxPlen => "RX_PLEN"
  | .txLevel => "TX_LEVEL"
  | .txCount => "TX_COUNT"
  | .resyncCnt => "RESYNC_CNT"
  | .damagedCnt => "DAMAGED_CNT"
  | .engAcc => "ENG_ACC"
  | .txAcc => "TX_ACC"

def isBlank (ch : Char) : Bool := ch == ' ' || ch == '\t'

def trimBlanks (w : List Char) : List Char := ((w.dropWhile isBlank).reverse.dropWhile isBlank).reverse

/-- The pieces between commas. -/
def splitCommas : List Char → List (List Char)
  | [] => [[]]
  | ch :: rest =>
    if ch == ',' then [] :: splitCommas rest
    else
      match splitCommas rest with
      | [] => [[ch]]
      | w :: ws => (ch :: w) :: ws

/-- The value of a digit in the given base. -/
def digitValue (base : Nat) (ch : Char) : Option Nat :=
  let k := ch.toNat
  let v := if 48 ≤ k ∧ k ≤ 57 then k - 48
    else if 65 ≤ k ∧ k ≤ 70 then k - 55
    else if 97 ≤ k ∧ k ≤ 102 then k - 87
    else base
  if v < base then some v else none

def readDigits (base acc : Nat) : List Char → Option Nat
  | [] => some acc
  | ch :: rest => (digitValue base ch).bind fun v => readDigits base (acc * base + v) rest

/-- "a byte or 16-bit operand is a decimal number or a `0x` hexadecimal number" (R77). -/
def readNumber : List Char → Option Nat
  | [] => none
  | ['0', 'x'] => none
  | '0' :: 'x' :: ds => readDigits 16 0 ds
  | ds => readDigits 10 0 ds

/-- "a CSR operand is a CSR number or its name" (R77). -/
def readCsr (w : List Char) : Option Nat :=
  match CfgReg.all.find? (fun r => (cfgRegName r).toList == w) with
  | some r => some r.number.toNat
  | none =>
    match View.all.find? (fun v => (viewName v).toList == w) with
    | some v => some v.number.toNat
    | none => readNumber w

def readNumbers : List (List Char) → Option (List Nat)
  | [] => some []
  | w :: ws => (readNumber w).bind fun v => (readNumbers ws).map fun vs => v :: vs

/-- The operands of a line, by the format of its mnemonic (R77). -/
def readOperands (f : Format) (ws : List (List Char)) : Option (List Nat) :=
  match f, ws with
  | .csr, w :: rest | .csrData, w :: rest => (readCsr w).bind fun v => (readNumbers rest).map fun vs => v :: vs
  | _, ws => readNumbers ws

/-- A pseudo-instruction by its name (R79). -/
def readPseudo (name : List Char) (args : List Nat) : Option Pseudo :=
  if name = "SEND".toList then some (.send args)
  else if name = "FEED".toList then some (.feed args)
  else if name = "CHECKSUM".toList then some (.checksum args)
  else
    match args with
    | [a, b, c, d, e, f, g] =>
      if name = "CONFIG_PARITY".toList then some (.configParity a b c d e f g)
      else if name = "CONFIG_CRC".toList then some (.configCrc a b c d e f g)
      else none
    | _ => none

/-- The commands one line of text stands for (R77, R79): none for a blank line or a comment, several for
a pseudo-instruction; `none` is an assembly error. `;` starts a comment. -/
def assembleText (line : List Char) : Option (List Instr) :=
  let code := trimBlanks (line.takeWhile (· != ';'))
  let name := code.takeWhile (fun ch => !isBlank ch)
  let rest := trimBlanks (code.dropWhile (fun ch => !isBlank ch))
  let ws := if rest = [] then [] else (splitCommas rest).map trimBlanks
  if code = [] then some []
  else
    match Op.all.find? (fun o => (mnemonicOf o).toList == name) with
    | some o => (readOperands o.format ws).bind fun args => assembleAll [⟨o, args⟩]
    | none => (readNumbers ws).bind fun args => (readPseudo name args).bind fun p => assembleAll p.expand

end Sys2Proof.Machine
end

