-- ==== Sys2Proof/Tests/Slice0.lean ====
section
/-! SUPPORT. Tests. Expected words, responses and bytes are those of 95_test_vectors.md (the section is named) or
are written out from 30_encoding.md R71. The last part shows, for every statement with hypotheses, states and
operands that meet them. -/

namespace Sys2Proof.Tests

open Sys2Proof.Machine Sys2Proof.Claims

/-! ### Which lines are legal (R77): each check refuses an ill-formed line -/

theorem test_wf_operand_of_no_operand_line : AsmLine.wellFormed ⟨.nop, [1]⟩ = false := by decide
theorem test_wf_byte_above_255 : AsmLine.wellFormed ⟨.txByte, [256]⟩ = false := by decide
theorem test_wf_byte_missing : AsmLine.wellFormed ⟨.stuff, []⟩ = false := by decide
theorem test_wf_csr_above_255 : AsmLine.wellFormed ⟨.csrRd, [256]⟩ = false := by decide
theorem test_wf_csr_of_write_above_255 : AsmLine.wellFormed ⟨.cfgWr, [256, 0]⟩ = false := by decide
theorem test_wf_value_above_65535 : AsmLine.wellFormed ⟨.cfgWr, [1, 65536]⟩ = false := by decide
theorem test_wf_value_missing : AsmLine.wellFormed ⟨.cfgWr, [1]⟩ = false := by decide
theorem test_wf_index_above_65535 : AsmLine.wellFormed ⟨.rxPrd, [65536]⟩ = false := by decide
theorem test_wf_boundaries : AsmLine.wellFormed ⟨.cfgWr, [255, 65535]⟩ = true ∧
    AsmLine.wellFormed ⟨.txByte, [255]⟩ = true ∧ AsmLine.wellFormed ⟨.rxPrd, [65535]⟩ = true := by decide

/-! ### Decoding words written out from R71, one for each row, and illegal words (vectors 2.1) -/

theorem test_decode_nop : decode 0x00000000#32 = .ok .nop := by decide
theorem test_decode_cfgWr : decode 0x0106FF07#32 = .ok (.cfgWr 0x06 0xFF07) := by decide
theorem test_decode_csrRd : decode 0x02170000#32 = .ok (.csrRd 0x17) := by decide
theorem test_decode_cfgCommit : decode 0x03000000#32 = .ok .cfgCommit := by decide
theorem test_decode_softReset : decode 0x04000000#32 = .ok .softReset := by decide
theorem test_decode_stuff : decode 0x10000041#32 = .ok (.stuff 0x41) := by decide
theorem test_decode_engClr : decode 0x20000000#32 = .ok .engClr := by decide
theorem test_decode_engByte : decode 0x210000FF#32 = .ok (.engByte 0xFF) := by decide
theorem test_decode_engCompute : decode 0x22000000#32 = .ok .engCompute := by decide
theorem test_decode_engVerify : decode 0x23000047#32 = .ok (.engVerify 0x47) := by decide
theorem test_decode_txByte : decode 0x30000041#32 = .ok (.txByte 0x41) := by decide
theorem test_decode_txEnd : decode 0x31000000#32 = .ok .txEnd := by decide
theorem test_decode_txPop : decode 0x32000000#32 = .ok .txPop := by decide
theorem test_decode_rxFeed : decode 0x40000002#32 = .ok (.rxFeed 0x02) := by decide
theorem test_decode_rxExtract : decode 0x41000000#32 = .ok .rxExtract := by decide
theorem test_decode_rxPrd : decode 0x4200ABCD#32 = .ok (.rxPrd 0xABCD) := by decide
theorem test_decode_rxFlush : decode 0x43000000#32 = .ok .rxFlush := by decide

theorem test_decode_unassigned : [0x05000000#32, 0x0F000000, 0x24000000, 0x44000000, 0xFF000000].map decode =
    List.replicate 5 (.error .unassignedOpcode) := by decide
theorem test_decode_nonzero_field : [0x00000001#32, 0x10000100, 0x02000001, 0x03010000, 0x42010000, 0x41000001,
    0x31000080].map decode = List.replicate 7 (.error .mustBeZeroBit) := by decide
theorem test_table_word : decodeTableWord 32 0x01081234 = some (.cfgWr 0x08 0x1234) := by decide

/-- The text of a line (R77, R79): the eight words of Configuration C (vectors 0). -/
theorem test_text_config : (assembleText "CONFIG_CRC 0x02, 0x03, 0x10, 0x107, 8, 4, 0".toList).map (·.map encode) =
    some [0x01000001#32, 0x01010002, 0x01020003, 0x01030010, 0x01060107, 0x01070008, 0x01080004, 0x03000000] := by
  decide
/-- A delimiter operand above a byte is a legal imm16 (R77, R79); one above 16 bits is not. -/
theorem test_text_config_wide :
    ((assembleText "CONFIG_PARITY 65535, 256, 0x10, 48, 49, 4, 1".toList).map fun l => (l.take 3).map encode) =
      some [0x01000002#32, 0x0101FFFF, 0x01020100] ∧
    assembleText "CONFIG_PARITY 65536, 3, 16, 48, 49, 4, 1".toList = none := by decide
theorem test_text_too_big : assembleText "RX_PRD 65536 ; too big".toList = none := by decide

/-! ### Small states -/

/-- Configurations P and C of vectors 0. -/
def cfgP : Cfg :=
  { ctrl := 0, start := 0x02, stop := 0x03, esc := 0x10, evenmk := 0x30, oddmk := 0x31, gen := 0, deg := 0, fmax := 4 }
def cfgC : Cfg :=
  { ctrl := 1, start := 0x02, stop := 0x03, esc := 0x10, evenmk := 0, oddmk := 0, gen := 0x107, deg := 8, fmax := 4 }
/-- Configuration C with the generator x^3 + x + 1 (vectors 2.3). -/
def cfgD : Cfg := { cfgC with gen := 0xB, deg := 3 }
/-- A block with a configuration in force and nothing done yet. -/
def ready (c : Cfg) : State := { State.reset with cfg := c, cfgValid := true }
def depths (s : State) (r t : Nat) : State := { s with params := ⟨r, t⟩ }

def after (i : Instr) (s : State) : Option State :=
  match exec i s with
  | .next t => some t
  | _ => none
/-- The response of one command. -/
def answer (i : Instr) (s : State) : Option Word := (after i s).bind (fun t => t.resp.getLast?)

/-! ### One step of each command -/

theorem test_nop : answer .nop State.reset = some 0x00000000#32 := by decide
/-- Vectors 2.2: a 9-bit register keeps 0x107 of 0xFF07. -/
theorem test_cfgWr_width : (after (.cfgWr 0x06 0xFF07) (ready cfgP)).map (fun t => (t.cfg.gen, t.cfgValid)) =
    some (0x107#9, false) := by decide
theorem test_cfgWr_read_only : answer (.cfgWr 0x10 1) (ready cfgP) = some 0x50000000#32 := by decide
/-- Vectors 2.2: TX_INFRAME and CFG_VALID both set. -/
theorem test_csrRd_status : answer (.csrRd 0x10) { ready cfgP with txinf := true, txcnt := 1 } =
    some 0x00000005#32 := by decide
theorem test_csrRd_unassigned : answer (.csrRd 0x19) (ready cfgP) = some 0x50000000#32 := by decide
/-- Vectors 2.2: check 4. -/
theorem test_cfgCommit_fails : answer .cfgCommit (ready { cfgP with oddmk := 0x03 }) = some 0x60040000#32 := by decide
theorem test_cfgCommit_clears : (after .cfgCommit { ready cfgC with cfgValid := false, txq := [1], rxbuf := [2] }).map
    (fun t => (t.cfgValid, t.txq, t.rxbuf)) = some (true, [], []) := by decide
theorem test_softReset : (after .softReset { ready cfgP with txq := [0x02, 0x41] }).map
    (fun t => (t.cfgValid, t.txq, t.cfg.start)) = some (false, [], 0x00#8) := by decide
/-- Vectors 2.4: a marker is reserved in the Parity scheme only. -/
theorem test_stuff_parity : answer (.stuff 0x30) (ready cfgP) = some 0x00023010#32 := by decide
theorem test_stuff_crc : answer (.stuff 0x30) (ready cfgC) = some 0x00010030#32 := by decide
theorem test_engClr : (after .engClr { ready cfgC with engcrc := 0x41, engpar := true }).map
    (fun t => (t.engcrc, t.engpar)) = some (0x00#8, false) := by decide
/-- Vectors 2.3: 41 then 03. -/
theorem test_engByte_crc : (after (.engByte 0x03) { ready cfgC with engcrc := 0x41 }).map
    (fun t => (t.engcrc, t.engpar)) = some (0xC3#8, false) := by decide
theorem test_engByte_degree_3 : (after (.engByte 0xD3) (ready cfgD)).map
    (fun t => (t.engcrc, t.engpar)) = some (0x01#8, true) := by decide
theorem test_engCompute_crc : answer .engCompute { ready cfgC with engcrc := 0xC3 } = some 0x00000047#32 := by decide
theorem test_engCompute_parity : answer .engCompute { ready cfgP with engpar := true } = some 0x00000031#32 := by
  decide
theorem test_engVerify_equal : answer (.engVerify 0x47) { ready cfgC with engcrc := 0xC3 } = some 0x00000001#32 := by
  decide
theorem test_engVerify_other : answer (.engVerify 0x46) { ready cfgC with engcrc := 0xC3 } = some 0x00000000#32 := by
  decide
/-- Vectors 2.5: with FMAX = 1 each TX_BYTE closes its frame. -/
theorem test_txByte_closes : (after (.txByte 0x10) (ready { cfgP with fmax := 1 })).map (fun t => (t.txq, t.txinf)) =
    some ([0x02, 0x10, 0x10, 0x31, 0x03], false) := by decide
/-- Vectors 2.1: one byte free, four needed. -/
theorem test_txByte_full : answer (.txByte 0x41)
    { depths (ready { cfgP with fmax := 1 }) 64 6 with txq := [0x02, 0x10, 0x02, 0x31, 0x03] } =
    some 0x30000000#32 := by decide
/-- Vectors 2.5: the code 03 of 6C is escaped before STOP and not after it. -/
theorem test_txEnd_escapes_code : (after .txEnd { ready cfgC with txinf := true, txcnt := 1, txcrc := 0x6C }).map
    (fun t => t.txq) = some [0x10, 0x03, 0x03] := by decide
theorem test_txEnd_after_stop : (after .txEnd
    { ready { cfgC with ctrl := 3 } with txinf := true, txcnt := 1, txcrc := 0x6C }).map (fun t => t.txq) =
    some [0x03, 0x03] := by decide
theorem test_txPop : (after .txPop { State.reset with txq := [0x02, 0x41] }).map (fun t => (t.txq, t.resp)) =
    some ([0x41], [0x00000002#32]) := by decide
theorem test_txPop_empty : answer .txPop State.reset = some 0x40000000#32 := by decide
theorem test_rxFeed : (after (.rxFeed 0x02) { ready cfgP with rxbuf := [0x99] }).map (fun t => t.rxbuf) =
    some [0x99, 0x02] := by decide
theorem test_rxFeed_full : answer (.rxFeed 0x02) { depths (ready cfgP) 1 64 with rxbuf := [0x99] } =
    some 0x30000000#32 := by decide
/-- Vectors 1.6: garbage, with an ESC that does not escape in SEEK, then a frame. -/
theorem test_rxExtract_garbage : (after .rxExtract
    { ready cfgP with rxbuf := [0x99, 0x41, 0x03, 0x10, 0x02, 0x41, 0x30, 0x03] }).map
    (fun t => (t.rxpay, t.resync, t.resp)) = some ([0x41], 0, [0x00010001#32]) := by decide
/-- Vectors 1.5: a single flip is DAMAGED. -/
theorem test_rxExtract_damaged : (after .rxExtract { ready cfgP with rxbuf := [0x02, 0x40, 0x30, 0x03] }).map
    (fun t => (t.rxpay, t.damaged, t.resp)) = some ([], 1, [0x00030000#32]) := by decide
theorem test_rxPrd : answer (.rxPrd 1) { State.reset with rxpay := [0x41, 0x03] } = some 0x00000003#32 := by decide
theorem test_rxPrd_range : answer (.rxPrd 2) { State.reset with rxpay := [0x41, 0x03] } = some 0x50000000#32 := by
  decide
theorem test_rxFlush : (after .rxFlush { State.reset with rxbuf := [0x41], dstate := .acc, resync := 1 }).map
    (fun t => (t.rxbuf, t.dstate, t.resync)) = some ([], .seek, 1) := by decide

/-- The word placed for the next step is the one it runs. -/
theorem test_withFetchWord : step (State.reset.withFetchWord 32 0x01080004) = exec (.cfgWr 0x08 4) State.reset := rfl
theorem test_illegal_word : step (State.reset.withFetchWord 32 0x05000000) =
    .next (reply State.reset 0x10000000#32) := rfl

/-! ### Witnesses: each statement with hypotheses has states and operands that meet them -/

theorem witness_encodeOfDecode : decode 0x01FFFFFF#32 = .ok (.cfgWr 0xFF 0xFFFF) := by decide
theorem witness_pseudo_positions : (0 : Nat) ≤ 32767 ∧ (32767 : Nat) ≤ 32767 := by decide

def withCmd (l : List HostInput) (s : State) : State := { s with cmd := l }

theorem witness_step : (withCmd [.command 0x10000041#32] (ready cfgP)).cmd = .command 0x10000041#32 :: [] ∧
    decode 0x10000041#32 = .ok (.stuff 0x41) := by decide
theorem witness_illegal : (withCmd [.command 0x44000000#32] (ready cfgP)).cmd = .command 0x44000000#32 :: [] ∧
    IsIllegal 0x44000000#32 ∧ IsIllegal 0x10000100#32 := by
  refine ⟨rfl, ?_, ?_⟩ <;> unfold IsIllegal <;> decide
theorem witness_rst : (withCmd [.rst] (ready cfgP)).cmd = .rst :: [] := rfl

theorem witness_inv : (ready cfgP).Inv ∧ (ready cfgC).Inv ∧
    ({ ready cfgP with rxbuf := [2, 3], txq := [1], txinf := true, txcnt := 3, dstate := .acc, lastout := 2 } : State).Inv :=
  ⟨by decide, by decide, by decide⟩
theorem witness_csrRd_unassigned : ∀ a ∈ [0x09#8, 0x0F, 0x19, 0xFF], a ∉ (csrTable (ready cfgP)).map Prod.fst := by
  decide
theorem witness_csrRd_assigned : ∀ a ∈ [0x00#8, 0x08, 0x10, 0x18], a ∈ (csrTable (ready cfgP)).map Prod.fst := by
  decide
theorem witness_cfgWr_unassigned : ∀ a ∈ [0x09#8, 0x10, 0xFF], 8 < a.toNat := by decide

theorem fails_only {c : Cfg} (h1 : ¬ checkFails c 1) (h2 : ¬ checkFails c 2) (h3 : ¬ checkFails c 3)
    (h4 : ¬ checkFails c 4) (h5 : ¬ checkFails c 5) (h6 : ¬ checkFails c 6) (h7 : ¬ checkFails c 7) :
    ∀ k, ¬ checkFails c k := by
  intro k
  match k with
  | 0 => exact id
  | 1 => exact h1
  | 2 => exact h2
  | 3 => exact h3
  | 4 => exact h4
  | 5 => exact h5
  | 6 => exact h6
  | 7 => exact h7
  | _ + 8 => exact id
theorem witness_commit_passes : ∀ k, ¬ checkFails (ready cfgP).cfg k := by
  apply fails_only <;> simp only [checkFails] <;> decide
theorem witness_commit_passes_crc : ∀ k, ¬ checkFails (ready cfgC).cfg k := by
  apply fails_only <;> simp only [checkFails] <;> decide
/-- The first check and the last one can be the one that fails first (vectors 2.2). -/
theorem witness_commit_check_1 : checkFails (ready { cfgP with stop := 0x02 }).cfg 1 ∧
    ∀ j, j < 1 → ¬ checkFails (ready { cfgP with stop := 0x02 }).cfg j := by
  refine ⟨by simp only [checkFails]; decide, fun j hj => ?_⟩
  obtain rfl : j = 0 := by omega
  exact id
theorem witness_commit_check_7 : checkFails (ready { cfgC with gen := 0x106 }).cfg 7 ∧
    ∀ j, j < 7 → ¬ checkFails (ready { cfgC with gen := 0x106 }).cfg j := by
  refine ⟨by simp only [checkFails]; decide, fun j hj => ?_⟩
  interval_cases j <;> simp only [checkFails] <;> decide
theorem witness_commit_checks_between :
    checkFails (ready { cfgP with fmax := 0 }).cfg 2 ∧ checkFails (ready { cfgP with evenmk := 0x31 }).cfg 3 ∧
    checkFails (ready { cfgP with oddmk := 0x03 }).cfg 4 ∧ checkFails (ready { cfgC with deg := 9 }).cfg 5 ∧
    checkFails (ready { cfgC with deg := 7 }).cfg 6 := by
  refine ⟨?_, ?_, ?_, ?_, ?_⟩ <;> simp only [checkFails] <;> decide

theorem witness_ecfg : needsConfiguration (Instr.stuff 0).op = true ∧ State.reset.cfgValid = false ∧
    needsConfiguration Instr.txPop.op = false ∧ (ready cfgP).cfgValid = true := by decide
theorem witness_error : ∃ t r, exec .txPop State.reset = .next t ∧ t.resp = State.reset.resp ++ [r] ∧
    r.extractLsb' 28 4 ≠ 0#4 ∧ r.extractLsb' 28 4 ≠ 6#4 := ⟨_, 0x40000000#32, rfl, by decide, by decide, by decide⟩
theorem witness_stuff : (0x30 : Byte) ∈ reservedList (ready cfgP).cfg ∧ (0x30 : Byte) ∉ reservedList (ready cfgC).cfg := by
  decide
theorem witness_valid : cfgP.Valid ∧ cfgC.Valid ∧ cfgD.Valid ∧ ({ cfgP with ctrl := 2 } : Cfg).Valid ∧
    cfgC.scheme = .crc ∧ cfgD.scheme = .crc ∧ cfgP.ctrl[0] = false := by decide
theorem witness_crc_degree_1 : ({ cfgC with gen := 3, deg := 1 } : Cfg).Valid := by decide
theorem witness_engine_code : (0x47 : Byte) = (if cfgC.ctrl[0] then cfgC.crcFinal 0xC3 else cfgC.evenmk) := by decide
/-- The first and the last bit of a two-byte list. -/
theorem witness_flip : 0 < 8 * [0x41#8, 0x03].length ∧ 15 < 8 * [0x41#8, 0x03].length ∧
    flipBit [0x41, 0x03] 0 = [0xC1, 0x03] ∧ flipBit [0x41, 0x03] 15 = [0x41, 0x02] := by decide
theorem witness_lengths : [0x41#8, 0x42].length = [0x40#8, 0x45].length := by decide
theorem witness_verify_degrees : cfgC.deg.toNat = 8 ∧ 2 ^ cfgD.deg.toNat ≤ (0x08 : Byte).toNat := by decide

/-- An open frame in a TXQ of 6 bytes, for a TX_END that needs 3. -/
def openFrame (q : List Byte) : State :=
  { depths (ready cfgC) 64 6 with txinf := true, txcnt := 1, txcrc := 0x6C, txq := q }
def endBytes (s : State) : List Byte := closing s.cfg s.txcrc s.txpar
def room (s : State) : Nat := s.params.txqDepth - s.txq.length
theorem witness_txEnd : (openFrame [0x02, 0x6C, 0]).txinf = true ∧ (ready cfgC).txinf = false ∧
    (endBytes (openFrame [0x02, 0x6C, 0])).length ≤ room (openFrame [0x02, 0x6C, 0]) ∧
    room (openFrame [0x02, 0x6C, 0, 0]) < (endBytes (openFrame [0x02, 0x6C, 0, 0])).length := by decide
/-- TX_BYTE with exactly the room it needs, and with one byte less. -/
def oneByteFrames (q : List Byte) : State := { depths (ready { cfgP with fmax := 1 }) 64 6 with txq := q }
theorem witness_txByte : (oneByteFrames [0]).Inv ∧ (oneByteFrames [0, 0]).Inv ∧
    (txByteOut (oneByteFrames [0]) 0x10).length ≤ room (oneByteFrames [0]) ∧
    room (oneByteFrames [0, 0]) < (txByteOut (oneByteFrames [0, 0]) 0x10).length :=
  ⟨by decide, by decide, by decide, by decide⟩
theorem witness_txPop : State.reset.txq = [] ∧ ({ State.reset with txq := [0x02] } : State).txq = 0x02 :: [] := by
  decide
theorem witness_txBound : (depths (ready cfgP) 1 6).params.InRange ∧ (depths (ready cfgP) 1 6).txq = [] := by decide
theorem witness_txBound_next : (∃ t, exec (.txByte 0x41) (ready cfgP) = .next t) ∧ ∃ t, exec .txEnd (openFrame []) = .next t :=
  ⟨⟨_, rfl⟩, ⟨_, rfl⟩⟩
theorem witness_chunks : 1 ≤ 1 := by decide
theorem witness_streaming : (ready cfgP).Inv ∧ (ready cfgP).txinf = false ∧
    [Instr.txByte 0x41, .txPop, .txEnd].filter (fun i => decide (i ≠ .txPop)) = [0x41].map .txByte ++ [.txEnd] ∧
    (okRun [Instr.txByte 0x41, .txPop, .txEnd] (ready cfgP)).isSome = true := by decide
/-- Exactly the room that Encode(41 03) needs. -/
theorem witness_send : (depths (ready cfgP) 64 6).Inv ∧
    (depths (ready cfgP) 64 6).txq.length + (cfgP.encodePayload [0x41, 0x03]).length ≤ 6 ∧
    (cfgP.encodePayload [0x41, 0x03]).length = 6 := by decide

theorem witness_rxFeed : (depths { ready cfgP with rxbuf := [0] } 1 64).rxbuf.length = 1 ∧
    (depths (ready cfgP) 1 64).rxbuf.length < 1 := by decide
theorem witness_rxExtract : (ready cfgP).Inv ∧ (scan cfgP .seek [0x02, 0x41, 0x30, 0x03]).outcome = .frame ∧
    (scan cfgP .seek [0x02, 0x41]).outcome = .incomplete ∧
    (scan cfgP .seek [0x02, 0x40, 0x30, 0x03]).outcome = .damaged ∧
    ({ ready cfgP with rxbuf := [0x02, 0x41, 0x30, 0x03] } : State).Inv ∧
    ({ ready cfgP with rxbuf := [0x02, 0x41] } : State).Inv ∧
    ({ ready cfgP with rxbuf := [0x02, 0x40, 0x30, 0x03] } : State).Inv :=
  ⟨by decide, by decide, by decide, by decide, by decide, by decide, by decide⟩
theorem witness_rxPrd : ({ State.reset with rxpay := [0x41] } : State).rxpay.length ≤ (1#16).toNat ∧
    (0#16).toNat < ({ State.reset with rxpay := [0x41] } : State).rxpay.length := by decide
theorem witness_seek : cfgP.start ∉ [0x99#8, 0x03, 0x10] := by decide
/-- An idle block. -/
theorem witness_idle : State.reset.cmd = [] ∧ (ready cfgP).cmd = [] := ⟨rfl, rfl⟩
/-- Bytes of neither delimiter: a payload byte and both markers (R125). -/
theorem witness_undelimited : ∀ b ∈ [0x41#8, 0x30, 0x31], b ∉ [cfgP.start, cfgP.stop, cfgP.esc] := by decide
/-- ESC before an unreserved byte is data, and so is a frame cut off before its STOP with its marker unescaped; a
dangling ESC, a START and a STOP are not. -/
theorem witness_readAsData : readAsData cfgP [] = some [] ∧ readAsData cfgP [0x10, 0x41] = some [0x41] ∧
    readAsData cfgP [0x41, 0x30] = some [0x41, 0x30] ∧ readAsData cfgP [0x10] = none ∧
    readAsData cfgP [0x02] = none ∧ readAsData cfgP [0x03] = none := by decide
/-- Vectors 2.6 row 5: the marker after `41`, right and wrong, none of them a delimiter. -/
theorem witness_markers : cfgP.codeOf [0x41] = 0x30 ∧ (0x31 : Byte) ≠ cfgP.codeOf [0x41] ∧
    (scan cfgP .seek [0x02, 0x41, 0x31, 0x03]).outcome = .damaged ∧
    (scan cfgP .seek [0x02, 0x41, 0x30, 0x03]).outcome = .frame := by decide
theorem witness_codePos : cfgP.codePos = .beforeStop ∧ ({ cfgP with ctrl := 2 } : Cfg).codePos = .afterStop := by decide
theorem witness_removes : (scan cfgP .acc [0x41]).outcome = .incomplete ∧ (scan cfgP .acc [0x41]).dstate = .acc ∧
    (scan cfgP .seek [0x99]).dstate = .seek ∧ (scan cfgP .seek [0x99]).outcome = .incomplete ∧
    (scan cfgP .acc [0x03]).outcome ≠ .incomplete := by decide
/-- What an attempt keeps after a closed frame: garbage, an abandoned `41` and a frame are removed and no byte more; with
the code after STOP, the code byte too; a STOP without its code byte is kept. An escaped START resynchronises nothing. -/
theorem witness_classifies :
    ((scan cfgP .seek [0x99, 0x02, 0x41, 0x02, 0x42, 0x30, 0x03, 0x99, 0x98]).buf,
      (scan cfgP .seek [0x99, 0x02, 0x41, 0x02, 0x42, 0x30, 0x03, 0x99, 0x98]).resyncs) = ([0x99, 0x98], 1) ∧
    (scan { cfgP with ctrl := 2 } .acc [0x41, 0x03, 0x02, 0x99]).buf = [0x99] ∧
    (scan { cfgP with ctrl := 2 } .acc [0x41, 0x03]).buf = [0x41, 0x03] ∧
    ((scan cfgP .acc [0x10, 0x02, 0x41]).buf, (scan cfgP .acc [0x10, 0x02, 0x41]).resyncs) =
      ([0x10, 0x02, 0x41], 0) := by decide
/-- RXBUF exactly as long as the frame. -/
theorem witness_roundTrip : (depths (ready cfgP) 4 64).Inv ∧ (depths (ready cfgP) 4 64).dstate = .seek ∧
    (depths (ready cfgP) 4 64).rxbuf = [] ∧ (cfgP.frameBytes [0x41]).length ≤ 4 := by decide
theorem witness_incremental : (depths (ready cfgP) 8 64).Inv ∧ (depths (ready cfgP) 8 64).rxbuf = [] ∧
    ([[0x41], [0x42]].flatMap cfgP.frameBytes).length ≤ 8 := by decide
/-- Frames one byte longer than RXBUF, with an attempt after every byte. -/
theorem witness_incremental_bytewise : (depths (ready cfgP) 3 64).Inv ∧ (depths (ready cfgP) 3 64).rxbuf = [] ∧
    ∀ p ∈ [[0x41#8], [0x42]], (cfgP.frameBytes p).length = 3 + 1 := by decide
theorem witness_prefix : cfgP.frameBytes [0x41] = [0x02, 0x41, 0x30] ++ [0x03] ∧ [0x03#8] ≠ [] := by decide
def twoFrames : State := { ready cfgP with rxbuf := [0x99, 0x02, 0x41, 0x30, 0x03, 0x02, 0x42, 0x30, 0x03] }
theorem witness_twoFrames : twoFrames.Inv ∧ twoFrames.dstate = .seek ∧ twoFrames.cfg.start ∉ [0x99#8] ∧
    twoFrames.rxbuf = [0x99] ++ twoFrames.cfg.frameBytes [0x41] ++ twoFrames.cfg.frameBytes [0x42] := by decide
theorem witness_repeated : ∃ t, exec .rxExtract { ready cfgP with rxbuf := [0x02, 0x41] } = .next t ∧ t.lastout = 2 :=
  ⟨_, rfl, by decide⟩
def stuck : State := { depths (ready cfgP) 2 64 with rxbuf := [0x41, 0x42], dstate := .acc, lastout := 2 }
theorem witness_stuck : stuck.Inv ∧ stuck.cfgValid = true ∧ stuck.dstate = .acc ∧
    stuck.rxbuf.length = stuck.params.rxbufDepth ∧ (scan stuck.cfg .acc stuck.rxbuf).outcome = .incomplete ∧
    (scan stuck.cfg .acc stuck.rxbuf).resyncs = 0 := by decide

theorem witness_invariant_step : (withCmd [.command 0x30000041#32] (ready cfgP)).Inv ∧
    ∃ t, step (withCmd [.command 0x30000041#32] (ready cfgP)) = .next t := ⟨by decide, _, rfl⟩
theorem witness_reset_params : Params.InRange ⟨1, 6⟩ ∧ Params.InRange ⟨65535, 65535⟩ := by decide
theorem witness_frames : (∃ t, exec .nop (ready cfgP) = .next t) ∧ ∃ t, exec (.rxFeed 1) (ready cfgP) = .next t :=
  ⟨⟨_, rfl⟩, ⟨_, rfl⟩⟩
theorem witness_independence : (Instr.rxFeed 0).op ∈ [Op.stuff, .rxFeed] ∧ (Instr.txByte 0).op ∈ [Op.stuff, .txByte] := by
  decide

end Sys2Proof.Tests
end

section
/-! What a command can answer (00_scope.md R12, R17, 60_exceptions.md R142): it responds OK or EBADCFG from a state
whose ports and parameters are as before, or it raises an error in the state as it was. -/

namespace Sys2Proof.Machine

open Sys2Proof.Claims

/-- The ports and the parameters, which no meaning writes before its response (log entries 1 and 2). -/
structure KeepsPorts (s t : State) : Prop where
  resp : t.resp = s.resp
  cmd : t.cmd = s.cmd
  params : t.params = s.params

theorem KeepsPorts.refl (s : State) : KeepsPorts s s := ⟨rfl, rfl, rfl⟩

/-- The two ways a command that starts in state `s` can end (R12, R142). -/
inductive Answers (s : State) : Result → Prop where
  | responds {t : State} {st : Status} {x : Byte} {v : Half} (ports : KeepsPorts s t)
      (status : st = .ok ∨ st = .ebadcfg) : Answers s (t.respond st x v)
  | raises (st : Status) : Answers s (s.raise st)

theorem Answers.ok {s t : State} {x : Byte} {v : Half} (ports : KeepsPorts s t) :
    Answers s (t.respond .ok x v) :=
  .responds ports (.inl rfl)

/-- The guard of R144 adds the error ECFG. -/
theorem Answers.needValid {s : State} {r : Result} (h : Answers s r) : Answers s (s.needValid r) := by
  unfold State.needValid
  split
  · exact h
  · exact .raises _

/-- The end of TX_BYTE and TX_END: all bytes are pushed, or EFULL (R118, R120). -/
theorem sendBytes_answers (s : State) (out : List Byte) (inf : Bool) (cnt : Half) (crc : Byte) (par : Bool) :
    Answers s (s.sendBytes out inf cnt crc par) := by
  unfold State.sendBytes
  split
  · exact .raises _
  · exact .ok ⟨rfl, rfl, rfl⟩

theorem stuffResponse_answers (s : State) (out : List Byte) : Answers s (stuffResponse s out) := by
  unfold stuffResponse
  split <;> exact .ok (.refl s)

theorem execCfgWr_answers (a : Byte) (d : Half) (s : State) : Answers s (execCfgWr a d s) := by
  unfold execCfgWr
  split
  · exact .raises _
  · exact .ok ⟨rfl, rfl, rfl⟩

theorem execCsrRd_answers (a : Byte) (s : State) : Answers s (execCsrRd a s) := by
  unfold execCsrRd
  split
  · exact .raises _
  · exact .ok (.refl s)

/-- The one command that responds EBADCFG, and it writes state all the same (R87). -/
theorem execCfgCommit_answers (s : State) : Answers s (execCfgCommit s) := by
  unfold execCfgCommit
  dsimp only
  split
  · exact .ok ⟨rfl, rfl, rfl⟩
  · exact .responds ⟨rfl, rfl, rfl⟩ (.inr rfl)

theorem execTxByte_answers (b : Byte) (s : State) : Answers s (execTxByte b s) := by
  apply Answers.needValid
  exact iteInduction (motive := Answers s) (fun _ => sendBytes_answers ..) (fun _ => sendBytes_answers ..)

theorem execTxEnd_answers (s : State) : Answers s (execTxEnd s) := by
  apply Answers.needValid
  split
  · exact sendBytes_answers ..
  · exact .ok (.refl s)

theorem execTxPop_answers (s : State) : Answers s (execTxPop s) := by
  unfold execTxPop
  split
  · exact .raises _
  · exact .ok ⟨rfl, rfl, rfl⟩

theorem execRxFeed_answers (b : Byte) (s : State) : Answers s (execRxFeed b s) := by
  apply Answers.needValid
  split
  · exact .raises _
  · exact .ok ⟨rfl, rfl, rfl⟩

theorem execRxPrd_answers (d : Half) (s : State) : Answers s (execRxPrd d s) := by
  unfold execRxPrd
  split
  · exact .raises _
  · exact .ok (.refl s)

/-- Every command, in every state, ends in one of the two ways (R12, R142). -/
theorem exec_answers (i : Instr) (s : State) : Answers s (exec i s) := by
  cases i with
  | nop => exact .ok (.refl s)
  | cfgWr a d => exact execCfgWr_answers a d s
  | csrRd a => exact execCsrRd_answers a s
  | cfgCommit => exact execCfgCommit_answers s
  | softReset => exact .ok ⟨rfl, rfl, rfl⟩
  | stuff b => exact .needValid (stuffResponse_answers s _)
  | engClr => exact .needValid (.ok ⟨rfl, rfl, rfl⟩)
  | engByte b => exact .needValid (.ok ⟨rfl, rfl, rfl⟩)
  | engCompute => exact .needValid (.ok (.refl s))
  | engVerify b => exact .needValid (.ok (.refl s))
  | txByte b => exact execTxByte_answers b s
  | txEnd => exact execTxEnd_answers s
  | txPop => exact execTxPop_answers s
  | rxFeed b => exact execRxFeed_answers b s
  | rxExtract => exact .needValid (.ok ⟨rfl, rfl, rfl⟩)
  | rxPrd d => exact execRxPrd_answers d s
  | rxFlush => exact .ok ⟨rfl, rfl, rfl⟩

/-- `exec_answers` for a next state: its last response tells a success or an EBADCFG from an error. -/
theorem exec_next_cases {i : Instr} {s t : State} (h : exec i s = .next t) :
    (∃ (u : State) (st : Status) (x : Byte) (v : Half), KeepsPorts s u ∧ (st = .ok ∨ st = .ebadcfg) ∧
      t = u.emit (respWord st x v)) ∨
    (∃ st : Status, t = s.emit (respWord st 0 0)) := by
  have hans := exec_answers i s
  rw [h] at hans
  generalize hr : Host.Outcome.next t = r at hans
  cases hans with
  | responds ports status =>
    rw [State.respond_eq] at hr
    exact .inl ⟨_, _, _, _, ports, status, Host.Outcome.next.inj hr⟩
  | raises st =>
    rw [State.raise_eq] at hr
    exact .inr ⟨st, Host.Outcome.next.inj hr⟩

/-- An error's response holds its status alone (R17, R75): X and V are zero. -/
theorem respWord_error_low (st : Status) : (respWord st 0 0).extractLsb' 0 28 = 0#28 := by
  cases st <;> decide

/-- Settles O23: a status other than OK and EBADCFG leaves only the second way to end. -/
theorem errorChangesNothing : Obligations.ErrorChangesNothing := by
  intro i s t r hexec hresp hok hebadcfg
  rcases exec_next_cases hexec with ⟨u, st, x, v, ports, status, rfl⟩ | ⟨st, rfl⟩
  · have hr : respWord st x v = r := by simpa [ports.resp] using hresp
    rw [← hr, respWord_status] at hok hebadcfg
    rcases status with rfl | rfl
    · exact absurd rfl hok
    · exact absurd rfl hebadcfg
  · have hr : respWord st 0 0 = r := by simpa using hresp
    exact ⟨by rw [← hr]; rfl, by rw [← hr]; exact respWord_error_low st⟩

/-- Settles O8: the command arm of `step`, by `step_of_command`. -/
theorem stepRunsTheDecodedCommand : Obligations.StepRunsTheDecodedCommand :=
  fun _ _ _ _ hcmd hdecode => step_of_command hcmd hdecode

end Sys2Proof.Machine
end

section
/-! What a command can do to the block, said once (R81 to R89, R93, R108 to R111, R118 to R121, R134 to R137): every
command ends in one response, before which it left the state as it was or made one of the updates of `Effect`. -/

namespace Sys2Proof.Machine

/-- The commands that end without an update on some path: all but those that clear, pop or flush. -/
def mayLeaveState (i : Instr) : Bool := i.op ∉ [.cfgCommit, .softReset, .txPop, .rxFlush]

/-- The updates a command can make before its response, each with the guards it was made under. -/
inductive Effect (s : State) : Instr → State → Prop where
  | unchanged {i : Instr} (may : mayLeaveState i = true) : Effect s i s
  | configured {a : Byte} {r : CfgReg} (named : CfgReg.ofNumber a = some r) (d : Half) :
      Effect s (.cfgWr a d) (s.setCfg (s.cfg.write r d))
  | accepted (passed : s.cfg.firstFailedCheck = 0) : Effect s .cfgCommit (s.clearDatapath.setVerdict true 0)
  | rejected (failed : s.cfg.firstFailedCheck ≠ 0) :
      Effect s .cfgCommit (s.clearDatapath.setVerdict false s.cfg.firstFailedCheck)
  | reset : Effect s .softReset s.resetBlock
  | engCleared (valid : s.cfgValid = true) : Effect s .engClr (s.setEng 0 false)
  | engAbsorbed (b : Byte) (valid : s.cfgValid = true) :
      Effect s (.engByte b) (s.setEng (s.cfg.runningCrc s.engcrc b) (s.engpar ^^ oddOnes b))
  | frameExtended (b : Byte) (out : List Byte) (valid : s.cfgValid = true) (fits : out.length ≤ s.txFree)
      (notLast : (if s.txinf then s.txcnt else 0) + 1 ≠ s.cfg.fmax) :
      Effect s (.txByte b) ((s.pushTxq out).setTx true ((if s.txinf then s.txcnt else 0) + 1)
        (s.cfg.runningCrc (if s.txinf then s.txcrc else 0) b) ((if s.txinf then s.txpar else false) ^^ oddOnes b))
  | frameClosed {i : Instr} (closes : i.op = .txByte ∨ i.op = .txEnd) (out : List Byte)
      (valid : s.cfgValid = true) (fits : out.length ≤ s.txFree) :
      Effect s i ((s.pushTxq out).setTx false 0 0 false)
  | nothingToPop (empty : s.txq = []) : Effect s .txPop s
  | popped {b : Byte} {rest : List Byte} (oldest : s.txq = b :: rest) : Effect s .txPop (s.setTxq rest)
  | fed (b : Byte) (valid : s.cfgValid = true) (room : s.rxbuf.length ≠ s.params.rxbufDepth) :
      Effect s (.rxFeed b) (s.setRx s.dstate (s.rxbuf ++ [b]))
  | attempted (valid : s.cfgValid = true) : Effect s .rxExtract (s.afterAttempt (scan s.cfg s.dstate s.rxbuf))
  | flushed : Effect s .rxFlush ((s.setRx .seek []).setOutcome [] 0)

/-- The result of command `i` in state `s`: one of its effects, then a response. -/
inductive HasEffect (s : State) (i : Instr) : Result → Prop where
  | responds {u : State} (effect : Effect s i u) (st : Status) (x : Byte) (v : Half) :
      HasEffect s i (u.respond st x v)

theorem HasEffect.raises {s : State} {i : Instr} (may : mayLeaveState i = true) (st : Status) :
    HasEffect s i (s.raise st) :=
  .responds (.unchanged may) st 0 0

/-- Under the guard of R144 a meaning may use that the configuration is valid. -/
theorem HasEffect.needValid {s : State} {i : Instr} {r : Result} (may : mayLeaveState i = true)
    (h : s.cfgValid = true → HasEffect s i r) : HasEffect s i (s.needValid r) := by
  unfold State.needValid
  split
  next valid => exact h valid
  next => exact .raises may .ecfg

theorem sendBytes_hasEffect {s : State} {i : Instr} {out : List Byte} {inf : Bool} {cnt : Half} {crc : Byte}
    {par : Bool} (may : mayLeaveState i = true)
    (h : out.length ≤ s.txFree → Effect s i ((s.pushTxq out).setTx inf cnt crc par)) :
    HasEffect s i (s.sendBytes out inf cnt crc par) := by
  unfold State.sendBytes
  split
  next => exact .raises may .efull
  next room => exact .responds (h (by omega)) _ _ _

theorem stuffResponse_hasEffect (s : State) (b : Byte) (out : List Byte) :
    HasEffect s (.stuff b) (stuffResponse s out) := by
  unfold stuffResponse
  split <;> exact .responds (.unchanged rfl) _ _ _

theorem execCfgWr_hasEffect (a : Byte) (d : Half) (s : State) : HasEffect s (.cfgWr a d) (execCfgWr a d s) := by
  unfold execCfgWr
  split
  next => exact .raises rfl _
  next named => exact .responds (.configured named d) _ _ _

theorem execCsrRd_hasEffect (a : Byte) (s : State) : HasEffect s (.csrRd a) (execCsrRd a s) := by
  unfold execCsrRd
  split
  · exact .raises rfl _
  · exact .responds (.unchanged rfl) _ _ _

theorem execCfgCommit_hasEffect (s : State) : HasEffect s .cfgCommit (execCfgCommit s) := by
  unfold execCfgCommit
  dsimp only
  split
  next passed => exact .responds (.accepted passed) _ _ _
  next failed => exact .responds (.rejected failed) _ _ _

theorem execTxByte_hasEffect (b : Byte) (s : State) : HasEffect s (.txByte b) (execTxByte b s) := by
  refine .needValid rfl fun valid =>
    iteInduction (motive := HasEffect s (.txByte b)) (fun _ => ?last) (fun notLast => ?more)
  case last => exact sendBytes_hasEffect rfl (.frameClosed (.inl rfl) _ valid)
  case more => exact sendBytes_hasEffect rfl fun fits => .frameExtended b _ valid fits notLast

theorem execTxEnd_hasEffect (s : State) : HasEffect s .txEnd (execTxEnd s) := by
  refine .needValid rfl fun valid => ?_
  split
  · exact sendBytes_hasEffect rfl (.frameClosed (.inr rfl) _ valid)
  · exact .responds (.unchanged rfl) _ _ _

theorem execTxPop_hasEffect (s : State) : HasEffect s .txPop (execTxPop s) := by
  unfold execTxPop
  split
  next empty => exact .responds (.nothingToPop empty) _ _ _
  next oldest => exact .responds (.popped oldest) _ _ _

theorem execRxFeed_hasEffect (b : Byte) (s : State) : HasEffect s (.rxFeed b) (execRxFeed b s) := by
  refine .needValid rfl fun valid => ?_
  split
  next => exact .raises rfl _
  next room => exact .responds (.fed b valid room) _ _ _

theorem execRxPrd_hasEffect (d : Half) (s : State) : HasEffect s (.rxPrd d) (execRxPrd d s) := by
  unfold execRxPrd
  split
  · exact .raises rfl _
  · exact .responds (.unchanged rfl) _ _ _

/-- Every command, in every state, makes one of its effects and responds (R12, R142). -/
theorem exec_hasEffect (i : Instr) (s : State) : HasEffect s i (exec i s) := by
  cases i with
  | nop => exact .responds (.unchanged rfl) _ _ _
  | cfgWr a d => exact execCfgWr_hasEffect a d s
  | csrRd a => exact execCsrRd_hasEffect a s
  | cfgCommit => exact execCfgCommit_hasEffect s
  | softReset => exact .responds .reset _ _ _
  | stuff b => exact .needValid rfl fun _ => stuffResponse_hasEffect s b _
  | engClr => exact .needValid rfl fun valid => .responds (.engCleared valid) _ _ _
  | engByte b => exact .needValid rfl fun valid => .responds (.engAbsorbed b valid) _ _ _
  | engCompute => exact .needValid rfl fun _ => .responds (.unchanged rfl) _ _ _
  | engVerify b => exact .needValid rfl fun _ => .responds (.unchanged rfl) _ _ _
  | txByte b => exact execTxByte_hasEffect b s
  | txEnd => exact execTxEnd_hasEffect s
  | txPop => exact execTxPop_hasEffect s
  | rxFeed b => exact execRxFeed_hasEffect b s
  | rxExtract => exact .needValid rfl fun valid => .responds (.attempted valid) _ _ _
  | rxPrd d => exact execRxPrd_hasEffect d s
  | rxFlush => exact .responds .flushed _ _ _

/-- The next state of a command is that of one of its effects, with one response word more. -/
theorem exec_next_effect {i : Instr} {s t : State} (h : exec i s = .next t) :
    ∃ (u : State) (r : Word), Effect s i u ∧ t = u.emit r := by
  have heffect := exec_hasEffect i s
  rw [h] at heffect
  generalize hr : Host.Outcome.next t = r at heffect
  cases heffect with
  | responds effect st x v =>
    rw [State.respond_eq] at hr
    exact ⟨_, _, effect, Host.Outcome.next.inj hr⟩

end Sys2Proof.Machine
end

section
/-! What a decode attempt can leave, whatever the configuration (44_deframer.md R125, R132): a rest of the buffer, a
payload no longer than the bytes it was read from, and ACC only when it is INCOMPLETE. -/

namespace Sys2Proof.Machine

/-- The attempt leaves a rest of `buf` and a payload of at most `k` bytes, and stays in ACC only when INCOMPLETE. -/
structure Attempt.Within (buf : List Byte) (k : Nat) (a : Attempt) : Prop where
  buf_suffix : a.buf <:+ buf
  payload_le : a.payload.length ≤ k
  acc_incomplete : a.dstate = .acc → a.outcome = .incomplete

theorem Attempt.Within.mono {buf buf' : List Byte} {k k' : Nat} {a : Attempt} (h : a.Within buf k)
    (hbuf : buf <:+ buf') (hk : k ≤ k') : a.Within buf' k' :=
  ⟨h.buf_suffix.trans hbuf, h.payload_le.trans hk, h.acc_incomplete⟩

theorem incomplete_within (buf : List Byte) (k : Nat) (ds : DState) (n : Nat) :
    Attempt.Within buf k ⟨.incomplete, [], ds, buf, n⟩ :=
  ⟨List.suffix_refl _, Nat.zero_le _, fun _ => rfl⟩

theorem verdict_within (c : Cfg) (pay : List Byte) (code : Byte) (rest : List Byte) (n : Nat) :
    (verdict c pay code rest n).Within rest pay.length := by
  unfold verdict
  split
  · exact ⟨List.suffix_refl _, le_rfl, nofun⟩
  · exact ⟨List.suffix_refl _, Nat.zero_le _, nofun⟩

theorem closeFrame_within (c : Cfg) (acc : List Byte) {entry rest : List Byte} (n : Nat) (h : rest <:+ entry) :
    (closeFrame c acc entry n rest).Within entry acc.length := by
  unfold closeFrame
  cases c.codePos with
  | beforeStop =>
    dsimp only
    split
    · exact ⟨h, Nat.zero_le _, nofun⟩
    · exact (verdict_within ..).mono h (by simp)
  | afterStop =>
    dsimp only
    split
    · exact incomplete_within ..
    · exact (verdict_within ..).mono ((List.suffix_cons _ _).trans h) le_rfl

theorem scanAcc_within (c : Cfg) (acc entry : List Byte) (n : Nat) (l : List Byte) :
    l <:+ entry → (scanAcc c acc entry n l).Within entry (acc.length + l.length) := by
  refine scanAcc_induction
    (P := fun acc entry n l => l <:+ entry → (scanAcc c acc entry n l).Within entry (acc.length + l.length))
    c ?nil ?dangling ?escaped ?start ?stop ?data acc entry n l
  case nil => intro acc entry n _; rw [scanAcc_nil]; exact incomplete_within ..
  case dangling => intro acc entry n _; rw [scanAcc_dangling]; exact incomplete_within ..
  case escaped =>
    intro acc entry n x rest ih h
    rw [scanAcc_escaped]
    have hrest : rest <:+ entry := ((List.suffix_cons x rest).trans (List.suffix_cons _ _)).trans h
    exact (ih hrest).mono (List.suffix_refl _) (by simp; omega)
  case start =>
    intro acc entry n rest hne ih h
    rw [scanAcc_start hne]
    exact (ih (List.suffix_refl _)).mono ((List.suffix_cons _ _).trans h) (by simp; omega)
  case stop =>
    intro acc entry n rest hesc hstart h
    rw [scanAcc_stop hesc hstart]
    exact (closeFrame_within c acc n ((List.suffix_cons _ _).trans h)).mono (List.suffix_refl _) (by omega)
  case data =>
    intro acc entry n b rest hesc hstart hstop ih h
    rw [scanAcc_data hesc hstart hstop]
    exact (ih ((List.suffix_cons _ _).trans h)).mono (List.suffix_refl _) (by simp; omega)

theorem scan_within (c : Cfg) (ds : DState) (buf : List Byte) : (scan c ds buf).Within buf buf.length := by
  cases ds with
  | acc => simpa using scanAcc_within c [] buf 0 buf (List.suffix_refl _)
  | seek =>
    have hdrop := List.dropWhile_suffix (l := buf) (fun b => b != c.start)
    unfold scan
    dsimp only
    split
    next => exact (incomplete_within ..).mono List.nil_suffix (Nat.zero_le _)
    next b rest heq =>
      rw [heq] at hdrop
      have hrest := (List.suffix_cons b rest).trans hdrop
      exact (scanAcc_within c [] rest 0 rest (List.suffix_refl _)).mono hrest (by simpa using hrest.length_le)

end Sys2Proof.Machine
end
section
/-! The invariant of the block (10_state.md R22, R35 to R41): one rule per update of the state, then per effect of a
command, then per step. -/

namespace Sys2Proof.Machine

open Sys2Proof.Claims

/-- A value a running remainder may have: below degree d in the CRC scheme, 0 in the Parity scheme (R35, R117). -/
def Cfg.HoldsRemainder (c : Cfg) (r : Byte) : Prop :=
  match c.scheme with
  | .crc => r.toNat < 2 ^ c.deg.toNat
  | .parity => r = 0

theorem Cfg.holdsRemainder_zero (c : Cfg) : c.HoldsRemainder 0 := by
  unfold Cfg.HoldsRemainder
  cases c.scheme with
  | crc => exact Nat.two_pow_pos _
  | parity => rfl

theorem Cfg.holdsRemainder_runningCrc {c : Cfg} {r : Byte} (h : c.HoldsRemainder r) (b : Byte) :
    c.HoldsRemainder (c.runningCrc r b) := by
  unfold Cfg.HoldsRemainder Cfg.runningCrc at *
  cases hs : c.scheme with
  | crc => exact c.crcByte_lt r b
  | parity => simpa [hs] using h

theorem State.remaindersOk_iff (s : State) : s.RemaindersOk ↔
    (s.cfgValid = true → s.cfg.HoldsRemainder s.engcrc ∧ s.cfg.HoldsRemainder s.txcrc) := by
  unfold Cfg.HoldsRemainder
  cases hs : s.cfg.scheme <;> simp [State.RemaindersOk, hs]

/-- Every element at its reset value (R45). -/
theorem atReset_resetOf (p : Params) : AtReset (State.resetOf p) := by
  simp [AtReset, State.resetOf, Cfg.reset]

/-- A block with nothing in its datapath keeps the invariant under any verdict that R87 can give: the state after
CFG_COMMIT. -/
theorem State.inv_commit {s : State} (hparams : s.params.InRange) {valid : Bool} {err : BitVec 4}
    (hvalid : valid = true → s.cfg.firstFailedCheck = 0 ∧ err = 0) (herr : err.toNat ≤ 7) :
    (s.clearDatapath.setVerdict valid err).Inv :=
  ⟨hparams, ⟨Nat.zero_le _, Nat.zero_le _, Nat.zero_le _⟩, ⟨hvalid, herr⟩,
    ⟨fun _ => ⟨rfl, rfl, rfl⟩, nofun, nofun⟩,
    (State.remaindersOk_iff _).2 fun _ => ⟨Cfg.holdsRemainder_zero _, Cfg.holdsRemainder_zero _⟩,
    fun _ => rfl, nofun⟩

theorem State.inv_resetOf {p : Params} (hparams : p.InRange) : (State.resetOf p).Inv :=
  State.inv_commit (s := State.resetOf p) hparams (valid := false) nofun (Nat.zero_le 7)

section
variable {s : State} (h : s.Inv)
include h

theorem State.Inv.emit (r : Word) : (s.emit r).Inv := h

theorem State.Inv.setCmd (rest : List HostInput) : (s.setCmd rest).Inv := h

theorem State.Inv.resetBlock : s.resetBlock.Inv := State.inv_resetOf h.1

/-- A write to a configuration register ends the verdict, and with it the bounds that rest on it (R82). -/
theorem State.Inv.setCfg (c : Cfg) : (s.setCfg c).Inv := by
  obtain ⟨hparams, hqueues, ⟨_, herr⟩, ⟨hclosed, hopen, _⟩, _, hreceiver⟩ := h
  exact ⟨hparams, hqueues, ⟨nofun, herr⟩, ⟨hclosed, hopen, nofun⟩, ⟨nofun, nofun⟩, hreceiver⟩

theorem State.Inv.remainders (valid : s.cfgValid = true) :
    s.cfg.HoldsRemainder s.engcrc ∧ s.cfg.HoldsRemainder s.txcrc := by
  obtain ⟨_, _, _, _, hremainders, _⟩ := h
  exact s.remaindersOk_iff.1 hremainders valid

theorem State.Inv.setEng {crc : Byte} (hcrc : s.cfgValid = true → s.cfg.HoldsRemainder crc) (par : Bool) :
    (s.setEng crc par).Inv := by
  have hremainders := h.remainders
  obtain ⟨hparams, hqueues, hverdict, hframer, _, hreceiver⟩ := h
  exact ⟨hparams, hqueues, hverdict, hframer,
    (State.remaindersOk_iff _).2 fun valid => ⟨hcrc valid, (hremainders valid).2⟩, hreceiver⟩

theorem State.Inv.setTxq {q : List Byte} (hq : q.length ≤ s.params.txqDepth) : (s.setTxq q).Inv := by
  obtain ⟨hparams, ⟨_, hbuf, hpay⟩, hrest⟩ := h
  exact ⟨hparams, ⟨hq, hbuf, hpay⟩, hrest⟩

theorem State.Inv.pushTxq {out : List Byte} (fits : out.length ≤ s.txFree) : (s.pushTxq out).Inv := by
  refine h.setTxq ?_
  obtain ⟨_, ⟨hq, _, _⟩, _⟩ := h
  unfold State.txFree at fits
  simp only [List.length_append]
  omega

/-- The framer after a frame closed: nothing is counted (R36). -/
theorem State.Inv.setTx_closed : (s.setTx false 0 0 false).Inv := by
  have hremainders := h.remainders
  obtain ⟨hparams, hqueues, hverdict, _, _, hreceiver⟩ := h
  exact ⟨hparams, hqueues, hverdict, ⟨fun _ => ⟨rfl, rfl, rfl⟩, nofun, nofun⟩,
    (State.remaindersOk_iff _).2 fun valid => ⟨(hremainders valid).1, Cfg.holdsRemainder_zero _⟩, hreceiver⟩

/-- The framer with a frame open: at least one byte is counted, and fewer than F (R36). -/
theorem State.Inv.setTx_open {cnt : Half} {crc : Byte} (par : Bool) (hpos : 1 ≤ cnt.toNat)
    (hlt : cnt.toNat < s.cfg.fmax.toNat) (hcrc : s.cfg.HoldsRemainder crc) : (s.setTx true cnt crc par).Inv := by
  have hremainders := h.remainders
  obtain ⟨hparams, hqueues, hverdict, _, _, hreceiver⟩ := h
  exact ⟨hparams, hqueues, hverdict, ⟨nofun, fun _ => hpos, fun _ _ => hlt⟩,
    (State.remaindersOk_iff _).2 fun valid => ⟨(hremainders valid).1, hcrc⟩, hreceiver⟩

/-- A longer or shorter receive buffer, in the same decoder state (R134). -/
theorem State.Inv.setRxbuf {buf : List Byte} (hbuf : buf.length ≤ s.params.rxbufDepth) :
    (s.setRx s.dstate buf).Inv := by
  obtain ⟨hparams, ⟨hq, _, hpay⟩, hrest⟩ := h
  exact ⟨hparams, ⟨hq, hbuf, hpay⟩, hrest⟩

theorem State.Inv.flush : ((s.setRx .seek []).setOutcome [] 0).Inv := by
  obtain ⟨hparams, ⟨hq, _, _⟩, hverdict, hframer, hremainders, _⟩ := h
  exact ⟨hparams, ⟨hq, Nat.zero_le _, Nat.zero_le _⟩, hverdict, hframer, hremainders, fun _ => rfl, nofun⟩

/-- Any attempt on the buffer that leaves no more than it found (R135). -/
theorem State.Inv.afterAttempt {a : Attempt} (ha : a.Within s.rxbuf s.rxbuf.length) : (s.afterAttempt a).Inv := by
  obtain ⟨hparams, ⟨hq, hbuf, _⟩, hverdict, hframer, hremainders, _⟩ := h
  have hrest : a.buf.length ≤ s.params.rxbufDepth := ha.buf_suffix.length_le.trans hbuf
  have hpay : (if a.outcome = .frame then a.payload else []).length ≤ s.params.rxbufDepth := by
    split
    · exact ha.payload_le.trans hbuf
    · exact Nat.zero_le _
  have hnone : a.outcome.code ≠ 1 → (if a.outcome = .frame then a.payload else []) = [] := by
    intro hcode
    exact if_neg fun hframe => hcode (by rw [hframe]; rfl)
  have hacc : a.dstate = .acc → a.outcome.code = 2 := by
    intro hds
    rw [ha.acc_incomplete hds]; rfl
  exact ⟨hparams, ⟨hq, hrest, hpay⟩, hverdict, hframer, hremainders, hnone, hacc⟩

/-- While a configuration is in force, what TX_BYTE counts from is below F (R36, R118; the bound of log entry 4). -/
theorem State.Inv.openCount_lt (valid : s.cfgValid = true) :
    (if s.txinf then s.txcnt else 0).toNat < s.cfg.fmax.toNat := by
  obtain ⟨_, _, ⟨hpassed, _⟩, ⟨_, _, hbelow⟩, _⟩ := h
  split
  next hopen => exact hbelow hopen valid
  next => exact Cfg.fmax_of_valid (hpassed valid).1

/-- What TX_BYTE continues is a remainder of the configuration in force. -/
theorem State.Inv.openCrc_holds (valid : s.cfgValid = true) :
    s.cfg.HoldsRemainder (if s.txinf then s.txcrc else 0) := by
  split
  · exact (h.remainders valid).2
  · exact Cfg.holdsRemainder_zero _

/-- A byte that does not fill the frame leaves it open with a count between 1 and F - 1, since the count was below F
and does not wrap around (R118). -/
theorem State.Inv.extendFrame {b : Byte} {out : List Byte} (par : Bool) (valid : s.cfgValid = true)
    (fits : out.length ≤ s.txFree) (notLast : (if s.txinf then s.txcnt else 0) + 1 ≠ s.cfg.fmax) :
    ((s.pushTxq out).setTx true ((if s.txinf then s.txcnt else 0) + 1)
      (s.cfg.runningCrc (if s.txinf then s.txcrc else 0) b) par).Inv := by
  have hlt := h.openCount_lt valid
  have hcrc := Cfg.holdsRemainder_runningCrc (h.openCrc_holds valid) b
  generalize (if s.txinf then s.txcnt else 0) = cnt at *
  have hne : (cnt + 1).toNat ≠ s.cfg.fmax.toNat := fun e => notLast (BitVec.eq_of_toNat_eq e)
  have hnext : (cnt + 1).toNat = cnt.toNat + 1 := by
    have := s.cfg.fmax.isLt
    rw [BitVec.toNat_add]
    exact Nat.mod_eq_of_lt (by simp; omega)
  exact (h.pushTxq fits).setTx_open par (by omega) (by simp only [State.pushTxq_cfg]; omega) hcrc

/-- Every effect of a command keeps the invariant. -/
theorem Effect.inv {i : Instr} {t : State} (effect : Effect s i t) : t.Inv := by
  cases effect with
  | unchanged => exact h
  | configured => exact h.setCfg _
  | accepted passed => exact State.inv_commit h.1 (fun _ => ⟨passed, rfl⟩) (Nat.zero_le 7)
  | rejected => exact State.inv_commit h.1 nofun s.cfg.firstFailedCheck_le
  | reset => exact h.resetBlock
  | engCleared => exact h.setEng (fun _ => Cfg.holdsRemainder_zero _) _
  | engAbsorbed b =>
    exact h.setEng (fun valid => Cfg.holdsRemainder_runningCrc (h.remainders valid).1 b) _
  | frameExtended b out valid fits notLast => exact h.extendFrame _ valid fits notLast
  | frameClosed _ _ _ fits => exact (h.pushTxq fits).setTx_closed
  | nothingToPop => exact h
  | popped oldest =>
    refine h.setTxq ?_
    obtain ⟨_, ⟨hq, _, _⟩, _⟩ := h
    rw [oldest] at hq
    exact (Nat.le_succ _).trans hq
  | fed b _ room =>
    refine h.setRxbuf ?_
    obtain ⟨_, ⟨_, hbuf, _⟩, _⟩ := h
    simp only [List.length_append, List.length_singleton]
    omega
  | attempted => exact h.afterAttempt (scan_within ..)
  | flushed => exact h.flush

theorem State.Inv.exec {i : Instr} {t : State} (hexec : Machine.exec i s = .next t) : t.Inv := by
  obtain ⟨u, r, effect, rfl⟩ := exec_next_effect hexec
  exact (Effect.inv h effect).emit r

end

/-- Settles O56, by the input the step takes and, for a legal word, by the effect of its command. -/
theorem everyStepKeepsTheInvariant : Obligations.EveryStepKeepsTheInvariant := by
  intro s t h hstep
  cases hcmd : s.cmd with
  | nil =>
    rw [step_of_idle hcmd] at hstep
    cases hstep
    exact h
  | cons input rest =>
    cases input with
    | rst =>
      rw [step_of_rst hcmd] at hstep
      cases hstep
      exact (h.setCmd rest).resetBlock
    | command w =>
      cases hdecode : decode w with
      | ok i =>
        rw [step_of_command hcmd hdecode] at hstep
        exact (h.setCmd rest).exec hstep
      | error e =>
        rw [step_of_illegal hcmd hdecode] at hstep
        cases hstep
        exact (h.setCmd rest).emit _

/-- Settles O57: a block after reset is one with nothing in its datapath and no verdict. -/
theorem resetHasTheInvariant : Obligations.ResetHasTheInvariant :=
  fun _ hparams => State.inv_resetOf hparams

/-- Settles O11; State.reset is the block of log entry 2's parameters. -/
theorem resetStateHasTheValuesOfTheTable : Obligations.ResetStateHasTheValuesOfTheTable :=
  ⟨atReset_resetOf, atReset_resetOf Params.standard⟩

end Sys2Proof.Machine
end

section
/-! Who changes the two queues (10_state.md R37, R38, 20_memory.md R62), read off the effects of a command. -/

namespace Sys2Proof.Machine

/-- Settles O58: each effect of a command on the two queues. -/
theorem onlyTheirOwnCommandsChangeTheQueues : Obligations.OnlyTheirOwnCommandsChangeTheQueues := by
  intro i s t hexec
  obtain ⟨u, r, effect, rfl⟩ := exec_next_effect hexec
  simp only [State.emit_txq, State.emit_rxbuf]
  cases effect with
  | unchanged may =>
    -- `may` excludes the four commands that must clear, pop or flush; the others added and removed nothing
    cases i <;> simp [mayLeaveState, Instr.op] at may ⊢
  | configured => exact ⟨rfl, rfl⟩
  | accepted => exact ⟨rfl, rfl⟩
  | rejected => exact ⟨rfl, rfl⟩
  | reset => exact ⟨rfl, rfl⟩
  | engCleared => exact ⟨rfl, rfl⟩
  | engAbsorbed => exact ⟨rfl, rfl⟩
  | frameExtended b out => exact ⟨⟨out, rfl⟩, rfl⟩
  | frameClosed closes =>
    -- only TX_BYTE and TX_END meet `closes`, and they extend TXQ
    cases i <;> simp [Instr.op] at closes ⊢
  | nothingToPop empty => exact ⟨by simp [empty], rfl⟩
  | popped oldest => exact ⟨by simp [oldest], rfl⟩
  | fed => exact ⟨rfl, .inr rfl⟩
  | attempted =>
    obtain ⟨removed, hremoved⟩ := (scan_within s.cfg s.dstate s.rxbuf).buf_suffix
    exact ⟨rfl, removed, hremoved.symm⟩
  | flushed => exact ⟨rfl, rfl⟩

end Sys2Proof.Machine
end

section
/-! Reading a configuration register back (10_state.md R23, R24). -/

namespace Sys2Proof.Machine

open Sys2Proof.Claims

/-- The width of an RW register (R23). -/
def CfgReg.width : CfgReg → Nat
  | .ctrl => 2
  | .start | .stop | .esc | .evenmk | .oddmk => 8
  | .gen => 9
  | .deg => 4
  | .fmax => 16

theorem Cfg.read_write_same (c : Cfg) (r : CfgReg) (d : Half) :
    ((c.write r d).read r).toNat = d.toNat % 2 ^ r.width := by
  have hd := d.isLt
  cases r <;> simp only [Cfg.write, Cfg.read, CfgReg.width, BitVec.toNat_setWidth] <;> omega

theorem execCfgWr_number (r : CfgReg) (d : Half) (s : State) :
    execCfgWr r.number d s = .next ((s.setCfg (s.cfg.write r d)).emit (respWord .ok 0 0)) := by
  simp [execCfgWr]

theorem execCsrRd_number (r : CfgReg) (s : State) :
    execCsrRd r.number s = .next (s.emit (respWord .ok 0 (s.cfg.read r))) := by
  simp [execCsrRd, State.csrValue]

/-- The word of a response that is OK and has no auxiliary byte (R74). -/
theorem respWord_ok_zero (v : Half) : respWord .ok 0 v = response 0 0 v.toNat := by
  apply BitVec.eq_of_toNat_eq
  have hv := v.isLt
  simp [respWord_toNat, response, Status.code]
  omega

/-- Settles O18, with the pairs of its list as the numbers and widths of the registers. -/
theorem writtenRegisterReadsBackItsWidth : Obligations.WrittenRegisterReadsBackItsWidth := by
  intro p hp d s
  obtain ⟨r, _, rfl⟩ : ∃ r ∈ CfgReg.all, (r.number, r.width) = p := List.mem_map.1 hp
  refine ⟨_, execCfgWr_number r d s, (execCsrRd_number r _).trans ?_⟩
  have hread : respWord .ok 0 ((s.cfg.write r d).read r) = response 0 0 (d.toNat % 2 ^ r.width) := by
    rw [respWord_ok_zero, Cfg.read_write_same]
  rw [State.emit_cfg, State.setCfg_cfg, hread]
  rfl

end Sys2Proof.Machine
end

section
/-! Resuming an attempt (10_state.md R43): in ACC the buffer that is kept is one from whose head the loop of R125
comes back to where it stopped. -/

namespace Sys2Proof.Machine

/-- From the head of `entry`, whatever follows it, the loop comes to the rest `l` with `acc` accumulated and no
resynchronization on the way. -/
def ReachesFromHead (c : Cfg) (entry acc l : List Byte) : Prop :=
  ∀ (more : List Byte) (n : Nat),
    scanAcc c [] (entry ++ more) n (entry ++ more) = scanAcc c acc (entry ++ more) n (l ++ more)

theorem ReachesFromHead.refl (c : Cfg) (entry : List Byte) : ReachesFromHead c entry [] entry := fun _ _ => rfl

theorem ReachesFromHead.escaped {c : Cfg} {entry acc rest : List Byte} {x : Byte}
    (h : ReachesFromHead c entry acc (c.esc :: x :: rest)) : ReachesFromHead c entry (acc ++ [x]) rest :=
  fun more n => (h more n).trans (scanAcc_escaped ..)

theorem ReachesFromHead.data {c : Cfg} {entry acc rest : List Byte} {b : Byte}
    (hesc : b ≠ c.esc) (hstart : b ≠ c.start) (hstop : b ≠ c.stop)
    (h : ReachesFromHead c entry acc (b :: rest)) : ReachesFromHead c entry (acc ++ [b]) rest :=
  fun more n => (h more n).trans (scanAcc_data hesc hstart hstop ..)

theorem verdict_ne_incomplete (c : Cfg) (pay : List Byte) (code : Byte) (rest : List Byte) (n : Nat) :
    (verdict c pay code rest n).outcome ≠ .incomplete := by
  unfold verdict
  split <;> nofun

/-- Only a STOP that ends the buffer leaves a frame unfinished: its code byte has not arrived (R130). -/
theorem closeFrame_of_incomplete {c : Cfg} {acc entry rest : List Byte} {n : Nat}
    (h : (closeFrame c acc entry n rest).outcome = .incomplete) :
    rest = [] ∧ closeFrame c acc entry n rest = ⟨.incomplete, [], .acc, entry, n⟩ := by
  unfold closeFrame at *
  cases hpos : c.codePos with
  | beforeStop =>
    simp only [hpos] at h
    split at h
    · cases h
    · exact (verdict_ne_incomplete _ _ _ _ _ h).elim
  | afterStop =>
    simp only [hpos] at h ⊢
    cases rest with
    | nil => exact ⟨rfl, rfl⟩
    | cons => exact (verdict_ne_incomplete _ _ _ _ _ h).elim

/-- What an INCOMPLETE attempt `a` in ACC leaves: with more bytes behind the rest `l`, the loop does what it does from
the head of the buffer `a` kept. -/
def ResumesAt (c : Cfg) (acc entry : List Byte) (n : Nat) (l : List Byte) (a : Attempt) : Prop :=
  a.dstate = .acc ∧ ∀ more : List Byte,
    scanAcc c acc (entry ++ more) n (l ++ more) = scanAcc c [] (a.buf ++ more) a.resyncs (a.buf ++ more)

theorem ReachesFromHead.resumesAt {c : Cfg} {entry acc l : List Byte} (h : ReachesFromHead c entry acc l) (n : Nat) :
    ResumesAt c acc entry n l ⟨.incomplete, [], .acc, entry, n⟩ :=
  ⟨rfl, fun more => (h more n).symm⟩

theorem scanAcc_resumesAt (c : Cfg) (acc entry : List Byte) (n : Nat) (l : List Byte) :
    ReachesFromHead c entry acc l → (scanAcc c acc entry n l).outcome = .incomplete →
      ResumesAt c acc entry n l (scanAcc c acc entry n l) := by
  refine scanAcc_induction
    (P := fun acc entry n l => ReachesFromHead c entry acc l → (scanAcc c acc entry n l).outcome = .incomplete →
      ResumesAt c acc entry n l (scanAcc c acc entry n l))
    c ?nil ?dangling ?escaped ?start ?stop ?data acc entry n l
  case nil => intro acc entry n h _; rw [scanAcc_nil]; exact h.resumesAt n
  case dangling => intro acc entry n h _; rw [scanAcc_dangling]; exact h.resumesAt n
  case escaped =>
    intro acc entry n x rest ih h hinc
    rw [scanAcc_escaped] at hinc ⊢
    obtain ⟨hds, hresume⟩ := ih h.escaped hinc
    exact ⟨hds, fun more => (scanAcc_escaped ..).trans (hresume more)⟩
  case start =>
    intro acc entry n rest hne ih _ hinc
    rw [scanAcc_start hne] at hinc ⊢
    obtain ⟨hds, hresume⟩ := ih (.refl c rest) hinc
    exact ⟨hds, fun more => (scanAcc_start hne ..).trans (hresume more)⟩
  case stop =>
    intro acc entry n rest hesc hstart h hinc
    rw [scanAcc_stop hesc hstart] at hinc ⊢
    obtain ⟨rfl, hclose⟩ := closeFrame_of_incomplete hinc
    rw [hclose]
    exact h.resumesAt n
  case data =>
    intro acc entry n b rest hesc hstart hstop ih h hinc
    rw [scanAcc_data hesc hstart hstop] at hinc ⊢
    obtain ⟨hds, hresume⟩ := ih (h.data hesc hstart hstop) hinc
    exact ⟨hds, fun more => (scanAcc_data hesc hstart hstop ..).trans (hresume more)⟩

/-- An attempt in ACC over more bytes is the attempt on what the INCOMPLETE one kept, its resynchronizations added. -/
theorem scan_acc_append {c : Cfg} {buf : List Byte} (hinc : (scan c .acc buf).outcome = .incomplete)
    (more : List Byte) : (scan c .acc buf).dstate = .acc ∧
      scan c .acc (buf ++ more) = (scan c .acc ((scan c .acc buf).buf ++ more)).plus (scan c .acc buf).resyncs := by
  obtain ⟨hds, hresume⟩ := scanAcc_resumesAt c [] buf 0 buf (.refl c buf) hinc
  refine ⟨hds, (hresume more).trans ?_⟩
  simpa using scanAcc_plus c [] _ 0 _ (scan c .acc buf).resyncs

theorem scan_seek_of_noStart {c : Cfg} {g : List Byte} (hg : c.start ∉ g) (more : List Byte) :
    scan c .seek (g ++ more) = scan c .seek more := by
  have hdrop : (g ++ more).dropWhile (fun b => b != c.start) = more.dropWhile (fun b => b != c.start) :=
    List.dropWhile_append_of_pos fun b hb => by simpa using fun e : b = c.start => hg (e ▸ hb)
  simp only [scan, hdrop]

theorem scan_seek_start (c : Cfg) (rest : List Byte) : scan c .seek (c.start :: rest) = scan c .acc rest := by
  simp [scan]

theorem scan_seek_nil (c : Cfg) : scan c .seek [] = ⟨.incomplete, [], .seek, [], 0⟩ := rfl

/-- Garbage before the first START is discarded, and the attempt goes on in ACC (R126). -/
theorem scan_seek_at_start {c : Cfg} {g : List Byte} (hg : c.start ∉ g) (rest : List Byte) :
    scan c .seek (g ++ c.start :: rest) = scan c .acc rest := by
  rw [scan_seek_of_noStart hg, scan_seek_start]

/-- The same from either decoder state: in SEEK, what is discarded before the first START stays discarded (R126). -/
theorem scan_append_of_incomplete {c : Cfg} {ds : DState} {buf : List Byte}
    (hinc : (scan c ds buf).outcome = .incomplete) (more : List Byte) :
    scan c ds (buf ++ more) =
      (scan c (scan c ds buf).dstate ((scan c ds buf).buf ++ more)).plus (scan c ds buf).resyncs := by
  cases ds with
  | acc =>
    obtain ⟨hds, happend⟩ := scan_acc_append hinc more
    rw [happend, hds]
  | seek =>
    rcases split_at_start c buf with hnone | ⟨g, rest, rfl, hg⟩
    · have hseek : scan c .seek buf = ⟨.incomplete, [], .seek, [], 0⟩ := by
        simpa [scan_seek_nil] using scan_seek_of_noStart hnone []
      rw [hseek, scan_seek_of_noStart hnone]
      rfl
    · rw [scan_seek_at_start hg] at hinc ⊢
      obtain ⟨hds, happend⟩ := scan_acc_append hinc more
      rw [hds, List.append_assoc, List.cons_append, scan_seek_at_start hg, happend]

/-- Settles O51, by `scan_append_of_incomplete`. -/
theorem resumingEqualsRescanning : Obligations.ResumingEqualsRescanning := by
  rintro c ds buf more a rfl hinc
  rw [scan_append_of_incomplete hinc more, Nat.add_comm]
  rfl

end Sys2Proof.Machine
end

section
/-! Runs over the host's pending inputs (20_memory.md R59, 30_encoding.md R74): each step takes one input and answers a
command word with one response and a `rst` pulse with none, and the counts of the steps add up. -/

namespace Sys2Proof.Machine

open Sys2Proof.Claims

/-- From `s` the block came to `t`: `rest` is left pending, `n` response words were added to those already emitted, and
the parameters are as before (log entries 1 and 2). -/
structure Advances (s : State) (n : Nat) (rest : List HostInput) (t : State) : Prop where
  cmd : t.cmd = rest
  params : t.params = s.params
  resp : ∃ new : List Word, t.resp = s.resp ++ new ∧ new.length = n

theorem Advances.trans {s t u : State} {n m : Nat} {rest rest' : List HostInput} (first : Advances s n rest t)
    (second : Advances t m rest' u) : Advances s (n + m) rest' u := by
  obtain ⟨_, hparams, new, hresp, hlen⟩ := first
  obtain ⟨hcmd', hparams', new', hresp', hlen'⟩ := second
  exact ⟨hcmd', hparams'.trans hparams, new ++ new', by rw [hresp', hresp, List.append_assoc],
    by rw [List.length_append, hlen, hlen']⟩

/-- A command, whichever way it ends, responds once and takes no input itself (R74). -/
theorem Answers.advances {s : State} {r : Result} (h : Answers s r) : ∃ t, r = .next t ∧ Advances s 1 s.cmd t := by
  cases h with
  | @responds t st x v ports =>
    exact ⟨_, t.respond_eq st x v, ports.cmd, ports.params, [_], by rw [State.emit_resp, ports.resp], rfl⟩
  | raises st => exact ⟨_, s.raise_eq st, rfl, rfl, [_], rfl, rfl⟩

/-- A step takes the oldest input and responds once to a command word, legal or not, and not at all to `rst`. -/
theorem step_advances {s : State} {input : HostInput} {rest : List HostInput} (hcmd : s.cmd = input :: rest) :
    ∃ t, step s = .next t ∧ Advances s (commandCount [input]) rest t := by
  cases input with
  | rst => exact ⟨_, step_of_rst hcmd, rfl, rfl, [], (List.append_nil _).symm, rfl⟩
  | command w =>
    cases hdecode : decode w with
    | ok i =>
      obtain ⟨t, hexec, hcmd', hparams, hresp⟩ := (exec_answers i (s.setCmd rest)).advances
      exact ⟨t, (step_of_command hcmd hdecode).trans hexec, hcmd', hparams, hresp⟩
    | error e => exact ⟨_, step_of_illegal hcmd hdecode, rfl, rfl, [_], rfl, rfl⟩

theorem run_succ_of_step {M : Host.Core} {s t : M.State} (h : M.step s = .next t) (k : Nat) :
    M.run (k + 1) s = M.run k t := by
  simp only [Host.Core.run, h]

theorem commandCount_cons (input : HostInput) (rest : List HostInput) :
    commandCount (input :: rest) = commandCount [input] + commandCount rest :=
  List.countP_append (l₁ := [input])

/-- As many steps as inputs pending take them all, by induction on the pending inputs. -/
theorem run_advances (inputs : List HostInput) : ∀ s : State, s.cmd = inputs →
    ∃ t, Host.Core.run core inputs.length s = .next t ∧ Advances s (commandCount inputs) [] t := by
  induction inputs with
  | nil => exact fun s hcmd => ⟨s, rfl, hcmd, rfl, [], (List.append_nil _).symm, rfl⟩
  | cons input rest ih =>
    intro s hcmd
    obtain ⟨t, hstep, hfirst⟩ := step_advances hcmd
    obtain ⟨u, hrun, hothers⟩ := ih t hfirst.cmd
    refine ⟨u, (run_succ_of_step (M := core) hstep rest.length).trans hrun, ?_⟩
    rw [commandCount_cons]
    exact hfirst.trans hothers

/-- Settles O15, by `run_advances` over all that is pending. -/
theorem aRunAnswersEveryPendingCommand : Obligations.ARunAnswersEveryPendingCommand := by
  intro s
  obtain ⟨t, hrun, hcmd, hparams, hresp⟩ := run_advances s.cmd s rfl
  exact ⟨t, hrun, hcmd, hparams, hresp⟩

end Sys2Proof.Machine
end

section
/-! Decoding and encoding are inverse to each other, and a word is legal as the command of the row that matches it
(30_encoding.md R67 to R73, R78): the command of a row, put back into a word, has the fields of the word it was taken
from. -/

namespace Sys2Proof

open Sys2Proof.Claims

/-- Settles O1: the fields of an encoded command are what its row builds it from. -/
theorem decodeOfEncodeIsTheCommand : Obligations.DecodeOfEncodeIsTheCommand := by
  intro i
  obtain ⟨a, d, hencode, hzero, hbuild⟩ := encode_eq_wordOf i
  rw [hencode]
  exact (decode_eq_ok_iff _ i).2 ⟨i.op, opField_wordOf .., by simpa using hzero, hbuild.symm⟩

/-- Widening a byte to the data field undoes taking the byte, when the rest of the field is zero (R67, R68). -/
theorem byte_operand_eq_field {d : Half} (h : d &&& 0xFF00#16 = 0) : (d.setWidth 8).setWidth 16 = d := by
  have hmask : d &&& 0x00FF#16 = (d.setWidth 8).setWidth 16 := by
    apply BitVec.eq_of_toNat_eq
    simp only [BitVec.toNat_and, BitVec.toNat_setWidth]
    rw [show (0x00FF#16).toNat = 2 ^ 8 - 1 from rfl, Nat.and_two_pow_sub_one_eq_mod]
    omega
  calc (d.setWidth 8).setWidth 16 = d &&& 0x00FF#16 ||| d &&& 0xFF00#16 := by rw [h, hmask]; simp
    _ = d &&& (0x00FF#16 ||| 0xFF00#16) := BitVec.and_or_distrib_left.symm
    _ = d := BitVec.and_allOnes

/-- A word is put together from its own fields (R67). -/
theorem wordOf_fields {w : Word} {o : Op} (hop : opField w = o.code) : wordOf o (aField w) (dField w) = w :=
  eq_of_fields (by rw [opField_wordOf, hop]) (aField_wordOf ..) (dField_wordOf ..)

@[simp] theorem build_op (o : Op) (w : Word) : (o.build w).op = o := by cases o <;> rfl

/-- The command of a row goes back to the fields it came from, by the format of the row (R68, R70). -/
theorem encode_build {o : Op} {w : Word} (h : o.format.leavesZero (aField w) (dField w)) :
    encode (o.build w) = wordOf o (aField w) (dField w) := by
  cases o
  case nop | cfgCommit | softReset | engClr | engCompute | txEnd | txPop | rxExtract | rxFlush =>
    obtain ⟨ha, hd⟩ := h
    rw [ha, hd]
    rfl
  case stuff | engByte | engVerify | txByte | rxFeed =>
    obtain ⟨ha, hd⟩ := h
    simp only [Op.build, encode, bField_eq, byte_operand_eq_field hd, ha]
  case csrRd =>
    have hd : dField w = 0 := h
    rw [hd]
    rfl
  case cfgWr => rfl
  case rxPrd =>
    have ha : aField w = 0 := h
    rw [ha]
    rfl

/-- Settles O2, by `encode_build` for the row that matches the word. -/
theorem encodeOfDecodeIsTheWord : Obligations.EncodeOfDecodeIsTheWord := by
  intro w i hdecode
  obtain ⟨o, hop, hzero, rfl⟩ := (decode_eq_ok_iff w i).1 hdecode
  rw [encode_build hzero, wordOf_fields hop]

/-- The row of a mnemonic in the opcode table (R71): match is the opcode, mask that of the format (R68). -/
def Op.row (o : Op) : Op × Word × Word := (o, o.code.setWidth 32 <<< 24, o.format.mask)

theorem tableRows_eq : tableRows = Op.all.map Op.row := by decide

theorem Op.mem_all (o : Op) : o ∈ Op.all := by cases o <;> decide

theorem mem_tableRows_iff (row : Op × Word × Word) : row ∈ tableRows ↔ ∃ o : Op, o.row = row := by
  simp [tableRows_eq, Op.mem_all]

/-- A word decodes to a command of a mnemonic exactly when the mnemonic's masked bits match (R72). -/
theorem decode_op_iff (w : Word) (o : Op) :
    (∃ i, decode w = .ok i ∧ i.op = o) ↔ w &&& o.format.mask = o.code.setWidth 32 <<< 24 := by
  rw [mask_eq_match_iff]
  constructor
  · rintro ⟨i, hdecode, rfl⟩
    obtain ⟨o, hop, hzero, rfl⟩ := (decode_eq_ok_iff w i).1 hdecode
    rw [build_op]
    exact ⟨hop, hzero⟩
  · rintro ⟨hop, hzero⟩
    exact ⟨o.build w, (decode_eq_ok_iff w _).2 ⟨o, hop, hzero, rfl⟩, build_op o w⟩

theorem row_matches_iff (w : Word) (o : Op) :
    (∃ row ∈ tableRows, row.1 = o ∧ w &&& row.2.2 = row.2.1) ↔
      w &&& o.format.mask = o.code.setWidth 32 <<< 24 := by
  simp [mem_tableRows_iff, Op.row]

/-- A word that no row matches is refused, and only such a word is (R72, R73). -/
theorem decode_error_iff (w : Word) : (∃ e, decode w = .error e) ↔ IsIllegal w := by
  constructor
  · rintro ⟨e, herror⟩ row hrow hmatch
    obtain ⟨i, hok, _⟩ := (decode_op_iff w row.1).2 ((row_matches_iff w row.1).1 ⟨row, hrow, rfl, hmatch⟩)
    rw [herror] at hok
    cases hok
  · intro hillegal
    cases hdecode : decode w with
    | error e => exact ⟨e, rfl⟩
    | ok i =>
      obtain ⟨row, hrow, _, hmatch⟩ := (row_matches_iff w i.op).2 ((decode_op_iff w i.op).1 ⟨i, hdecode, rfl⟩)
      exact absurd hmatch (hillegal row hrow)

/-- Settles O3: both sides of the first part are the match of the mnemonic's own row. -/
theorem wordIsLegalExactlyWhenARowMatches : Obligations.WordIsLegalExactlyWhenARowMatches :=
  ⟨fun w o => (decode_op_iff w o).trans (row_matches_iff w o).symm, decode_error_iff⟩

/-- The number of a word as R67 writes it. -/
theorem wordOf_toNat_or (o : Op) (a : Byte) (d : Half) :
    (wordOf o a d).toNat = o.code.toNat <<< 24 ||| a.toNat <<< 16 ||| d.toNat := by
  rw [wordOf_toNat, or_of_fields _ _ _ a.isLt d.isLt]

/-- The same without a CSR number (R68). -/
theorem wordOf_toNat_data (o : Op) (d : Half) : (wordOf o 0 d).toNat = o.code.toNat <<< 24 ||| d.toNat := by
  simp [wordOf_toNat_or]

theorem wordOf_toNat_csr (o : Op) (a : Byte) : (wordOf o a 0).toNat = o.code.toNat <<< 24 ||| a.toNat <<< 16 := by
  simp [wordOf_toNat_or]

/-- The same for a byte operand (R68). -/
theorem wordOf_toNat_byte (o : Op) (b : Byte) :
    (wordOf o 0 (b.setWidth 16)).toNat = o.code.toNat <<< 24 ||| b.toNat := by
  rw [wordOf_toNat_data, BitVec.toNat_setWidth_of_le (by decide)]

/-- Settles O4: a command without operands is one word, the others have the fields of their format. -/
theorem encodingOfEachLine : Obligations.EncodingOfEachLine := fun a b v d =>
  ⟨rfl, wordOf_toNat_or .cfgWr a v, wordOf_toNat_csr .csrRd a, wordOf_toNat_byte .stuff b,
    wordOf_toNat_byte .engByte b, wordOf_toNat_byte .engVerify b, wordOf_toNat_byte .txByte b,
    wordOf_toNat_byte .rxFeed b, rfl, rfl, rfl, rfl, rfl, rfl, rfl, rfl, wordOf_toNat_data .rxPrd d⟩

/-- Settles O7: the legal words are encodings, the other two fail one of the two checks of R72 each. -/
theorem sampleWordsDecode : Obligations.SampleWordsDecode :=
  ⟨decodeOfEncodeIsTheCommand (.cfgWr 0x01 0x0002), decodeOfEncodeIsTheCommand (.csrRd 0x17),
    decodeOfEncodeIsTheCommand (.engVerify 0xF4), decodeOfEncodeIsTheCommand .txEnd,
    decodeOfEncodeIsTheCommand (.rxPrd 0xFFFF), rfl, rfl⟩

end Sys2Proof
end

section
/-! The assembler (30_encoding.md R77, R79): a line is legal exactly when it is the line of a command, and then it
assembles to that command. -/

namespace Sys2Proof

/-- The numbers of the operands that a format takes from a word (R68). -/
def Format.operands : Format → Word → List Nat
  | .none, _ => []
  | .byte, w => [(bField w).toNat]
  | .csr, w => [(aField w).toNat]
  | .csrData, w => [(aField w).toNat, (dField w).toNat]
  | .index, w => [(dField w).toNat]

theorem args_build (o : Op) (w : Word) : (o.build w).args = o.format.operands w := by cases o <;> rfl

/-- Operands that come from a word are in range: each has the width of its field. -/
theorem admits_operands (f : Format) (w : Word) : f.admits (f.operands w) = true := by
  have ha := (aField w).isLt
  have hb := (bField w).isLt
  have hd := (dField w).isLt
  cases f <;> simp only [Format.operands, Format.admits, Bool.and_eq_true, decide_eq_true_eq] <;> omega

/-- A number that fits its field is not truncated (R77). -/
theorem toNat_ofNat_of_lt {w n : Nat} (h : n < 2 ^ w) : (BitVec.ofNat w n).toNat = n :=
  Nat.mod_eq_of_lt h

/-- Numbers in range are the operands of a word, whatever its opcode. -/
theorem exists_operands_of_admits {f : Format} {args : List Nat} (h : f.admits args = true) (o : Op) :
    ∃ w, opField w = o.code ∧ f.operands w = args := by
  suffices hfields : ∃ a d, f.operands (wordOf o a d) = args by
    obtain ⟨a, d, hargs⟩ := hfields
    exact ⟨_, opField_wordOf o a d, hargs⟩
  fun_cases Format.admits f args
  case case1 => exact ⟨0, 0, rfl⟩
  case case2 b =>
    have hb : b ≤ 255 := by simpa [Format.admits] using h
    have hfield : bField (wordOf o 0 (BitVec.ofNat 16 b)) = BitVec.ofNat 8 b := by
      rw [bField_eq, dField_wordOf, BitVec.setWidth_ofNat_of_le (by decide)]
    exact ⟨0, BitVec.ofNat 16 b, by rw [Format.operands, hfield, toNat_ofNat_of_lt (by omega)]⟩
  case case3 a =>
    have ha : a ≤ 255 := by simpa [Format.admits] using h
    exact ⟨BitVec.ofNat 8 a, 0, by rw [Format.operands, aField_wordOf, toNat_ofNat_of_lt (by omega)]⟩
  case case4 a d =>
    obtain ⟨ha, hd⟩ : a ≤ 255 ∧ d ≤ 65535 := by simpa [Format.admits] using h
    refine ⟨BitVec.ofNat 8 a, BitVec.ofNat 16 d, ?_⟩
    rw [Format.operands, aField_wordOf, dField_wordOf, toNat_ofNat_of_lt (by omega),
      toNat_ofNat_of_lt (by omega)]
  case case5 d =>
    have hd : d ≤ 65535 := by simpa [Format.admits] using h
    exact ⟨0, BitVec.ofNat 16 d, by rw [Format.operands, dField_wordOf, toNat_ofNat_of_lt (by omega)]⟩
  case case6 hnone hbyte hcsr hcsrData hindex => simp_all [Format.admits]

/-- The line that writes a command (R77). -/
def Instr.line (i : Instr) : AsmLine := ⟨i.op, i.args⟩

/-- The line of every command is legal, since its operands are those of the command's word. -/
theorem Instr.line_wellFormed (i : Instr) : i.line.wellFormed = true := by
  obtain ⟨a, d, _, _, hbuild⟩ := encode_eq_wordOf i
  have hargs : i.args = i.op.format.operands (wordOf i.op a d) := by rw [← args_build, hbuild]
  unfold AsmLine.wellFormed Instr.line
  rw [hargs]
  exact admits_operands _ _

/-- A legal line is the line of a command. -/
theorem AsmLine.eq_line_of_wellFormed {l : AsmLine} (h : l.wellFormed = true) : ∃ i : Instr, i.line = l := by
  obtain ⟨w, _, hargs⟩ := exists_operands_of_admits h l.op
  refine ⟨l.op.build w, ?_⟩
  rw [Instr.line, build_op, args_build, hargs]

/-- The line of a command assembles to the command: no operand loses a bit (R77). -/
@[simp] theorem assemble_line (i : Instr) : assemble i.line = some i := by
  rw [assemble, if_pos i.line_wellFormed]
  cases i <;> simp [Instr.line, Instr.op, Instr.args]

/-- All that `assemble` can answer. -/
theorem assemble_eq_some_iff (l : AsmLine) (i : Instr) : assemble l = some i ↔ i.line = l := by
  constructor
  · intro h
    have hwf : l.wellFormed = true := by
      by_contra hnot
      rw [assemble, if_neg hnot] at h
      cases h
    obtain ⟨j, rfl⟩ := AsmLine.eq_line_of_wellFormed hwf
    rw [assemble_line] at h
    rw [Option.some.inj h]
  · rintro rfl
    exact assemble_line i

theorem assemble_isSome_iff (l : AsmLine) : (assemble l).isSome = true ↔ l.wellFormed = true := by
  rw [Option.isSome_iff_exists]
  constructor
  · rintro ⟨i, h⟩
    rw [← (assemble_eq_some_iff l i).1 h]
    exact i.line_wellFormed
  · intro h
    obtain ⟨i, rfl⟩ := AsmLine.eq_line_of_wellFormed h
    exact ⟨i, assemble_line i⟩

/-- Settles O5: the first part is `assemble_eq_some_iff`, the second spells out `Format.admits`. -/
theorem lineAssemblesExactlyWhenOperandsFit : Obligations.LineAssemblesExactlyWhenOperandsFit := by
  refine ⟨fun o args i => (assemble_eq_some_iff _ i).trans (iff_of_eq (AsmLine.mk.injEq ..)), ?_⟩
  intro o args
  rw [assemble_isSome_iff, AsmLine.wellFormed]
  dsimp only
  generalize o.format = f
  fun_cases Format.admits f args <;> simp

/-- Lines of commands assemble to the commands, in order. -/
theorem assembleAll_map_line (is : List Instr) : assembleAll (is.map Instr.line) = some is := by
  induction is with
  | nil => rfl
  | cons i is ih => simp [assembleAll, ih]

/-- A pseudo-instruction whose lines are those of a list of commands stands for that list (R79). -/
theorem assembleAll_expand {p : Pseudo} {is : List Instr} (h : p.expand = is.map Instr.line) :
    assembleAll p.expand = some is := by
  rw [h, assembleAll_map_line]

/-- Lines with one byte operand each, as the lines of their commands. -/
theorem map_byteLine_eq {o : Op} {f : Byte → Instr} (hline : ∀ b, (f b).line = ⟨o, [b.toNat]⟩) (p : List Byte) :
    (p.map BitVec.toNat).map (fun b => (⟨o, [b]⟩ : AsmLine)) = (p.map f).map Instr.line := by
  simp [hline]

/-- The two values CTRL takes: the placement in bit 1, the scheme in bit 0 (10_state.md R25). -/
theorem ctrl_parity_toNat {pos : Nat} (h : pos ≤ 32767) : (BitVec.ofNat 16 (2 * pos)).toNat = pos <<< 1 := by
  rw [toNat_ofNat_of_lt (by omega), Nat.shiftLeft_eq, Nat.mul_comm, Nat.pow_one]

theorem ctrl_crc_toNat {pos : Nat} (h : pos ≤ 32767) :
    (BitVec.ofNat 16 (2 * pos + 1)).toNat = pos <<< 1 ||| 1 := by
  rw [toNat_ofNat_of_lt (by omega), ← Nat.shiftLeft_add_eq_or_of_lt (by decide), Nat.shiftLeft_eq,
    Nat.mul_comm, Nat.pow_one]

/-- Settles O6: the lines of R79 are the lines of the commands listed. -/
theorem pseudoInstructionsExpand : Obligations.PseudoInstructionsExpand := by
  refine ⟨fun p => ⟨?send, ?feed, ?checksum⟩, ?configParity, ?configCrc⟩
  case send =>
    apply assembleAll_expand
    rw [Pseudo.expand, map_byteLine_eq (f := .txByte) (fun _ => rfl), List.map_append]
    rfl
  case feed => exact assembleAll_expand (map_byteLine_eq (fun _ => rfl) p)
  case checksum =>
    apply assembleAll_expand
    rw [Pseudo.expand, map_byteLine_eq (f := .engByte) (fun _ => rfl), List.map_append, List.map_append]
    rfl
  case configParity =>
    intro st sp e m1 m2 f pos hpos
    apply assembleAll_expand
    rw [Pseudo.expand, ← ctrl_parity_toNat hpos]
    rfl
  case configCrc =>
    intro st sp e g dg f pos hpos
    apply assembleAll_expand
    rw [Pseudo.expand, ← ctrl_crc_toNat hpos]
    rfl

end Sys2Proof
end

section
/-! The response word (30_encoding.md R73 to R75): its layout as a number, and that every command word is answered
with one. -/

namespace Sys2Proof.Machine

open Sys2Proof.Claims

/-- The number of a response word is the one R74 makes of its fields. -/
theorem respWord_eq_response (st : Status) (x : Byte) (v : Half) :
    respWord st x v = response st.code.toNat x.toNat v.toNat := by
  rw [response, ← respWord_toNat, BitVec.ofNat_toNat, BitVec.setWidth_eq]

/-- R75 lists no status above 6. -/
theorem Status.code_le (st : Status) : st.code.toNat ≤ 6 := by cases st <;> decide

/-- Settles O13, for the code of each status. -/
theorem responseWordLayout : Obligations.ResponseWordLayout := fun x v =>
  ⟨respWord_eq_response .ok x v, respWord_eq_response .illegal x v, respWord_eq_response .ecfg x v,
    respWord_eq_response .efull x v, respWord_eq_response .eempty x v, respWord_eq_response .erange x v,
    respWord_eq_response .ebadcfg x v⟩

/-- Settles O9: a word that no row matches is refused, and the refusal is the ILLEGAL response. -/
theorem illegalWordOnlyResponds : Obligations.IllegalWordOnlyResponds := by
  intro s w rest hcmd hillegal
  obtain ⟨e, hdecode⟩ := (decode_error_iff w).2 hillegal
  exact step_of_illegal hcmd hdecode

/-- However a command ends, it adds one response word and takes no input itself (R74). -/
theorem Answers.responds_once {s : State} {r : Result} (h : Answers s r) :
    ∃ t st x v, r = .next t ∧ t.cmd = s.cmd ∧ t.resp = s.resp ++ [respWord st x v] := by
  cases h with
  | @responds t st x v ports =>
    exact ⟨_, st, x, v, t.respond_eq st x v, ports.cmd, by rw [State.emit_resp, ports.resp]⟩
  | raises st => exact ⟨_, st, 0, 0, s.raise_eq st, rfl, rfl⟩

/-- The step on a command word, legal or not, adds one response word (R73, R74). -/
theorem step_command_responds {s : State} {w : Word} {rest : List HostInput} (hcmd : s.cmd = .command w :: rest) :
    ∃ t st x v, step s = .next t ∧ t.cmd = rest ∧ t.resp = s.resp ++ [respWord st x v] := by
  cases hdecode : decode w with
  | error e => exact ⟨_, .illegal, 0, 0, step_of_illegal hcmd hdecode, rfl, rfl⟩
  | ok i =>
    rw [step_of_command hcmd hdecode]
    exact (exec_answers i (s.setCmd rest)).responds_once

/-- Settles O12: the word the step adds has the layout of R74, and its fields are in range. -/
theorem oneResponsePerCommandWord : Obligations.OneResponsePerCommandWord := by
  intro s w rest hcmd
  obtain ⟨t, st, x, v, hstep, hrest, hresp⟩ := step_command_responds hcmd
  exact ⟨t, hstep, hrest, st.code.toNat, x.toNat, v.toNat, st.code_le, x.isLt, v.isLt,
    by rw [hresp, respWord_eq_response]⟩

end Sys2Proof.Machine
end

section
/-! The first check of a configuration that fails (40_control.md R86), and the verdict of CFG_COMMIT on it (R87). -/

namespace Sys2Proof.Machine

open Sys2Proof.Claims

theorem checkFails_one_iff (c : Cfg) : checkFails c 1 ↔ c.delimitersClash = true := by
  simp [checkFails, Cfg.delimitersClash, or_assoc]

theorem checkFails_three_iff (c : Cfg) : checkFails c 3 ↔ c.scheme = .parity ∧ c.evenmk = c.oddmk :=
  and_congr_left' Cfg.scheme_eq_parity.symm

theorem checkFails_four_iff (c : Cfg) :
    checkFails c 4 ↔ c.scheme = .parity ∧ (c.isDelimiter c.evenmk || c.isDelimiter c.oddmk) = true := by
  simp [checkFails, Cfg.scheme_eq_parity, Cfg.isDelimiter_iff]

theorem checkFails_five_iff (c : Cfg) : checkFails c 5 ↔ c.scheme = .crc ∧ c.degreeOutOfRange = true := by
  simp [checkFails, Cfg.scheme_eq_crc, Cfg.degreeOutOfRange]

theorem checkFails_six_iff (c : Cfg) : checkFails c 6 ↔ c.scheme = .crc ∧ c.degreeMismatch = true := by
  rw [Cfg.scheme_eq_crc, Cfg.degreeMismatch_iff]
  rfl

theorem checkFails_seven_iff (c : Cfg) : checkFails c 7 ↔ c.scheme = .crc ∧ c.gen[0] = false :=
  and_congr_left' Cfg.scheme_eq_crc.symm

/-- R86 numbers its checks from 1 to 7. -/
theorem checkFails_range {c : Cfg} {k : Nat} (h : checkFails c k) : 1 ≤ k ∧ k ≤ 7 := by
  unfold checkFails at h
  split at h
  case h_8 => exact h.elim
  all_goals decide

/-- The checks before number `k` all pass. -/
def Cfg.PassesBefore (c : Cfg) (k : Nat) : Prop := ∀ j, j < k → ¬ checkFails c j

theorem Cfg.passesBefore_one (c : Cfg) : c.PassesBefore 1 :=
  fun _ hj hfails => absurd (checkFails_range hfails).1 (by omega)

/-- One more check passes. -/
theorem Cfg.PassesBefore.next {c : Cfg} {k : Nat} (before : c.PassesBefore k) (passes : ¬ checkFails c k) :
    c.PassesBefore (k + 1) :=
  Nat.forall_lt_succ_right.2 ⟨before, passes⟩

/-- No check is left after the seventh. -/
theorem Cfg.PassesBefore.all {c : Cfg} (before : c.PassesBefore 8) (k : Nat) : ¬ checkFails c k :=
  fun hfails => before k (Nat.lt_succ_of_le (checkFails_range hfails).2) hfails

/-- The checks of one scheme say nothing under the other (R86). -/
theorem not_checkFails_of_scheme_eq_crc {c : Cfg} (hs : c.scheme = .crc) : ¬ checkFails c 3 ∧ ¬ checkFails c 4 := by
  simp [checkFails_three_iff, checkFails_four_iff, hs]

theorem not_checkFails_of_scheme_eq_parity {c : Cfg} (hs : c.scheme = .parity) :
    ¬ checkFails c 5 ∧ ¬ checkFails c 6 ∧ ¬ checkFails c 7 := by
  simp [checkFails_five_iff, checkFails_six_iff, checkFails_seven_iff, hs]

/-- What R86 asks of the number it returns. -/
inductive FirstFailed (c : Cfg) : Nat → Prop where
  | none (passes : ∀ k, ¬ checkFails c k) : FirstFailed c 0
  | check {k : Nat} (fails : checkFails c k) (before : c.PassesBefore k) : FirstFailed c k

theorem FirstFailed.unique {c : Cfg} {k l : Nat} (hk : FirstFailed c k) (hl : FirstFailed c l) : k = l := by
  cases hk with
  | none passes =>
    cases hl with
    | none => rfl
    | check fails => exact absurd fails (passes l)
  | check fails before =>
    cases hl with
    | none passes => exact absurd fails (passes k)
    | check fails' before' =>
      exact Nat.le_antisymm (Nat.le_of_not_lt fun h => before _ h fails')
        (Nat.le_of_not_lt fun h => before' _ h fails)

/-- The checks are tried in the order of R86, those of the other scheme passing at once. -/
theorem Cfg.firstFailedCheck_spec (c : Cfg) : FirstFailed c c.firstFailedCheck.toNat := by
  unfold Cfg.firstFailedCheck
  split
  next fails1 => exact .check ((checkFails_one_iff c).2 fails1) c.passesBefore_one
  next pass1 =>
    have before2 := c.passesBefore_one.next (mt (checkFails_one_iff c).1 pass1)
    split
    next fails2 => exact .check fails2 before2
    next pass2 =>
      have before3 := before2.next pass2
      split
      next hs =>
        obtain ⟨pass5, pass6, pass7⟩ := not_checkFails_of_scheme_eq_parity hs
        split
        next fails3 => exact .check ((checkFails_three_iff c).2 ⟨hs, fails3⟩) before3
        next pass3 =>
          have before4 := before3.next fun h => pass3 ((checkFails_three_iff c).1 h).2
          split
          next fails4 => exact .check ((checkFails_four_iff c).2 ⟨hs, fails4⟩) before4
          next pass4 =>
            have before5 := before4.next fun h => pass4 ((checkFails_four_iff c).1 h).2
            exact .none (((before5.next pass5).next pass6).next pass7).all
      next hs =>
        obtain ⟨pass3, pass4⟩ := not_checkFails_of_scheme_eq_crc hs
        have before5 := (before3.next pass3).next pass4
        split
        next fails5 => exact .check ((checkFails_five_iff c).2 ⟨hs, fails5⟩) before5
        next pass5 =>
          have before6 := before5.next fun h => pass5 ((checkFails_five_iff c).1 h).2
          split
          next fails6 => exact .check ((checkFails_six_iff c).2 ⟨hs, fails6⟩) before6
          next pass6 =>
            have before7 := before6.next fun h => pass6 ((checkFails_six_iff c).1 h).2
            split
            next fails7 => exact .check ((checkFails_seven_iff c).2 ⟨hs, fails7⟩) before7
            next pass7 => exact .none (before7.next fun h => pass7 ((checkFails_seven_iff c).1 h).2).all

theorem Cfg.firstFailedCheck_eq_iff (c : Cfg) (k : Nat) : c.firstFailedCheck.toNat = k ↔ FirstFailed c k :=
  ⟨fun h => h ▸ c.firstFailedCheck_spec, c.firstFailedCheck_spec.unique⟩

theorem firstFailed_zero_iff (c : Cfg) : FirstFailed c 0 ↔ ∀ k, 1 ≤ k → k ≤ 7 → ¬ checkFails c k := by
  constructor
  · intro h k _ _
    cases h with
    | none passes => exact passes k
    | check fails => exact absurd (checkFails_range fails).1 (by decide)
  · intro h
    refine .none fun k hfails => ?_
    obtain ⟨hlow, hhigh⟩ := checkFails_range hfails
    exact h k hlow hhigh hfails

theorem firstFailed_pos_iff (c : Cfg) {k : Nat} (hk : 1 ≤ k) :
    FirstFailed c k ↔ checkFails c k ∧ ∀ j, 1 ≤ j → j < k → ¬ checkFails c j := by
  constructor
  · intro h
    cases h with
    | none => exact absurd hk (by decide)
    | check fails before => exact ⟨fails, fun j _ => before j⟩
  · rintro ⟨fails, before⟩
    exact .check fails fun j hj hfails => before j (checkFails_range hfails).1 hj hfails

/-- Settles O20: the number is what R86 asks for, and only one number is. -/
theorem firstFailedCheckIsTheFirst : Obligations.FirstFailedCheckIsTheFirst := fun c =>
  ⟨(c.firstFailedCheck_eq_iff 0).trans (firstFailed_zero_iff c),
    fun k hk _ => (c.firstFailedCheck_eq_iff k).trans (firstFailed_pos_iff c hk)⟩

/-- Both verdicts of CFG_COMMIT (R87) clear what R46 lists. -/
theorem execCfgCommit_of_zero {s : State} (h : s.cfg.firstFailedCheck = 0) :
    execCfgCommit s = .next (reply { cleared s with cfgValid := true, cfgErr := 0 } (respWord .ok 0 0)) := by
  simp only [execCfgCommit, if_pos h]
  rfl

theorem execCfgCommit_of_ne_zero {s : State} (h : s.cfg.firstFailedCheck ≠ 0) :
    execCfgCommit s = .next (reply { cleared s with cfgValid := false, cfgErr := s.cfg.firstFailedCheck }
      (respWord .ebadcfg (s.cfg.firstFailedCheck.setWidth 8) 0)) := by
  simp only [execCfgCommit, if_neg h]
  rfl

/-- Settles O21, by the number of the first failed check. -/
theorem cfgCommitClearsAndJudges : Obligations.CfgCommitClearsAndJudges := by
  intro s
  refine ⟨fun passes => ?_, fun k fails before => ?_⟩
  · have hzero : s.cfg.firstFailedCheck = 0 :=
      BitVec.eq_of_toNat_eq ((s.cfg.firstFailedCheck_eq_iff 0).2 (.none passes))
    exact execCfgCommit_of_zero hzero
  · have hk : s.cfg.firstFailedCheck.toNat = k := (s.cfg.firstFailedCheck_eq_iff k).2 (.check fails before)
    have hne : s.cfg.firstFailedCheck ≠ 0 := by
      intro hzero
      have hpos := (checkFails_range fails).1
      rw [← hk, hzero] at hpos
      exact absurd hpos (by decide)
    have hverdict : s.cfg.firstFailedCheck = BitVec.ofNat 4 k := by rw [← hk, BitVec.ofNat_toNat, BitVec.setWidth_eq]
    have hword : respWord .ebadcfg (s.cfg.firstFailedCheck.setWidth 8) 0 = response 6 k 0 := by
      rw [respWord_eq_response, BitVec.toNat_setWidth_of_le (by decide), hk]
      rfl
    rw [← hword, ← hverdict]
    exact execCfgCommit_of_ne_zero hne

end Sys2Proof.Machine
end

section
/-! What CSR_RD returns (40_control.md R84, R85): the registers and the views of 10_state.md R23 to R34 as numbers. -/

namespace Sys2Proof.Machine

open Sys2Proof.Claims

/-- A field above others is added to them (R31, R34). -/
theorem shiftLeft_or_toNat {hi lo : Half} {m n k : Nat} (hhi : hi.toNat = m) (hlo : lo.toNat = n) (hn : n < 2 ^ k)
    (hm : m * 2 ^ k < 2 ^ 16) : (hi <<< k ||| lo).toNat = m * 2 ^ k + n := by
  rw [BitVec.toNat_or, BitVec.toNat_shiftLeft, hhi, hlo, Nat.shiftLeft_eq, Nat.mod_eq_of_lt hm, ← Nat.shiftLeft_eq,
    ← Nat.shiftLeft_add_eq_or_of_lt hn]

theorem ofBool_toNat_zext (b : Bool) : ((BitVec.ofBool b).setWidth 16).toNat = b.toNat := by cases b <;> rfl

theorem accView_toNat (par : Bool) (crc : Byte) : (accView par crc).toNat = 256 * par.toNat + crc.toNat := by
  have hcrc : (crc.setWidth 16).toNat = crc.toNat := BitVec.toNat_setWidth_of_le (by decide)
  have hpar := par.toNat_lt
  have hfields := shiftLeft_or_toNat (k := 8) (ofBool_toNat_zext par) hcrc crc.isLt (by omega)
  rw [accView, hfields]
  omega

theorem DState.bit_toNat_zext (d : DState) : (d.bit.setWidth 16).toNat = if d = .acc then 1 else 0 := by
  cases d <;> rfl

/-- STATUS, put together from its lowest field up (R31). -/
theorem State.status_toNat (s : State) : s.status.toNat =
    s.cfgValid.toNat + 2 * (if s.dstate = .acc then 1 else 0) + 4 * s.txinf.toNat + 16 * s.lastout.toNat +
      256 * s.cfgErr.toNat := by
  have hvalid := s.cfgValid.toNat_lt
  have hinf := s.txinf.toNat_lt
  have hdstate : (if s.dstate = .acc then 1 else 0) < 2 := by split <;> decide
  have hout : (s.lastout.setWidth 16).toNat = s.lastout.toNat := BitVec.toNat_setWidth_of_le (by decide)
  have herr : (s.cfgErr.setWidth 16).toNat = s.cfgErr.toNat := BitVec.toNat_setWidth_of_le (by decide)
  have low2 := shiftLeft_or_toNat (k := 1) s.dstate.bit_toNat_zext (ofBool_toNat_zext s.cfgValid) hvalid (by omega)
  have low3 := shiftLeft_or_toNat (k := 2) (ofBool_toNat_zext s.txinf) low2 (by omega) (by omega)
  have low6 := shiftLeft_or_toNat (k := 4) hout low3 (by omega) (by omega)
  have all := shiftLeft_or_toNat (k := 8) herr low6 (by omega) (by omega)
  rw [State.status, BitVec.or_assoc, BitVec.or_assoc, BitVec.or_assoc, all]
  omega

/-- CSR_RD of every assigned number, as the table of the statement gives it: under the invariant a length is below
2^16 (R13, R32). -/
theorem csrTable_eq {s : State} (h : s.Inv) :
    csrTable s = CfgReg.all.map (fun r => (r.number, (s.cfg.read r).toNat)) ++
      View.all.map (fun v => (v.number, (s.view v).toNat)) := by
  obtain ⟨⟨_, hrx, _, htx⟩, ⟨hq, hbuf, hpay⟩, _⟩ := h
  have hlength {l : List Byte} {n : Nat} (hl : l.length ≤ n) (hn : n ≤ 65535) :
      (BitVec.ofNat 16 l.length).toNat = l.length := Nat.mod_eq_of_lt (by omega)
  simp [csrTable, CfgReg.all, View.all, CfgReg.number, View.number, Cfg.read, State.view, BitVec.toNat_setWidth_of_le,
    State.status_toNat, accView_toNat, hlength hq htx, hlength hbuf hrx, hlength hpay hrx,
    -BitVec.toNat_setWidth, -BitVec.toNat_ofNat]

theorem CfgReg.mem_all (r : CfgReg) : r ∈ CfgReg.all := by cases r <;> decide

theorem View.mem_all (v : View) : v ∈ View.all := by cases v <;> decide

/-- No number names both an RW register and a view (R23). -/
theorem CfgReg.ofNumber_view (v : View) : CfgReg.ofNumber v.number = none :=
  CfgReg.ofNumber_of_above (by cases v <;> decide)

theorem execCsrRd_view (v : View) (s : State) :
    execCsrRd v.number s = .next (s.emit (respWord .ok 0 (s.view v))) := by
  simp [execCsrRd, State.csrValue, CfgReg.ofNumber_view]

/-- ERANGE of R83 and R85: the number names nothing. -/
theorem raise_erange (s : State) : s.raise .erange = .next (reply s (response 5 0 0)) := by
  rw [State.raise_eq, respWord_eq_response]
  rfl

theorem execCsrRd_unassigned {a : Byte} (hreg : ∀ r : CfgReg, r.number ≠ a) (hview : ∀ v : View, v.number ≠ a)
    (s : State) : execCsrRd a s = .next (reply s (response 5 0 0)) := by
  have hnoReg : CfgReg.ofNumber a = none :=
    Option.eq_none_iff_forall_not_mem.2 fun r hr => hreg r (CfgReg.number_of_ofNumber hr)
  have hnoView : View.ofNumber a = none :=
    Option.eq_none_iff_forall_not_mem.2 fun v hv => hview v (View.number_of_ofNumber hv)
  rw [← raise_erange]
  simp only [execCsrRd, State.csrValue, hnoReg, hnoView, Option.map_none]

/-- Settles O19: the table is that of the registers and the views, and a number outside it names neither. -/
theorem csrRdReturnsTheView : Obligations.CsrRdReturnsTheView := by
  intro s h
  rw [csrTable_eq h]
  refine ⟨fun p hp => ?_, fun a ha => ?_⟩
  · rcases List.mem_append.1 hp with hreg | hview
    · obtain ⟨r, _, rfl⟩ := List.mem_map.1 hreg
      rw [← respWord_ok_zero]
      exact execCsrRd_number r s
    · obtain ⟨v, _, rfl⟩ := List.mem_map.1 hview
      rw [← respWord_ok_zero]
      exact execCsrRd_view v s
  · refine execCsrRd_unassigned (fun r hr => ha ?_) (fun v hv => ha ?_) s
    · exact List.mem_map.2 ⟨_, List.mem_append_left _ (List.mem_map_of_mem r.mem_all), hr⟩
    · exact List.mem_map.2 ⟨_, List.mem_append_right _ (List.mem_map_of_mem v.mem_all), hv⟩

end Sys2Proof.Machine
end

section
/-! NOP (40_control.md R81), and what CFG_WR writes (R82, R83). -/

namespace Sys2Proof.Machine

open Sys2Proof.Claims

/-- Settles O16: the word 0 is the encoding of NOP, and decoding is inverse to encoding. -/
theorem nopOnlyResponds : Obligations.NopOnlyResponds := by
  have hword : encode .nop = 0x00000000#32 := rfl
  refine ⟨fun w => ⟨fun hdecode => ?_, ?_⟩, fun _ => rfl⟩
  · rw [← hword]
    exact (encodeOfDecodeIsTheWord w .nop hdecode).symm
  · rintro rfl
    exact decodeOfEncodeIsTheCommand .nop

/-- A register of width w keeps D[w-1:0] (R24). -/
theorem lowBits_eq (d : Half) (w : Nat) : d.extractLsb' 0 w = d.setWidth w := by
  apply BitVec.eq_of_toNat_eq
  rw [BitVec.extractLsb'_toNat, BitVec.toNat_setWidth, Nat.shiftRight_zero]

theorem execCfgWr_of_above {a : Byte} (h : 8 < a.toNat) (d : Half) (s : State) :
    execCfgWr a d s = .next (reply s (response 5 0 0)) := by
  rw [← raise_erange]
  simp only [execCfgWr, CfgReg.ofNumber_of_above h]

/-- Settles O17: each number is that of a register, whose write keeps the low bits. -/
theorem cfgWrWritesOneRegister : Obligations.CfgWrWritesOneRegister := by
  intro d s
  simp only [lowBits_eq]
  exact ⟨execCfgWr_number .ctrl d s, execCfgWr_number .start d s, execCfgWr_number .stop d s,
    execCfgWr_number .esc d s, execCfgWr_number .evenmk d s, execCfgWr_number .oddmk d s,
    execCfgWr_number .gen d s, execCfgWr_number .deg d s, execCfgWr_number .fmax d s,
    fun a ha => execCfgWr_of_above ha d s⟩

end Sys2Proof.Machine
end

section
/-! The reserved list as the statements write it (41_codec.md R90), and the length and the parts of a stuffed
sequence (R94). -/

namespace Sys2Proof.Machine

open Sys2Proof.Claims

/-- The reserved list has the markers in the Parity scheme only (R90). -/
theorem Cfg.isReserved_iff (c : Cfg) (b : Byte) : c.isReserved b = true ↔ b ∈ reservedList c := by
  cases hs : c.scheme with
  | crc => simp [Cfg.isReserved, hs, reservedList, Cfg.scheme_eq_crc.1 hs, Cfg.isDelimiter_iff]
  | parity => simp [Cfg.isReserved, hs, reservedList, Cfg.scheme_eq_parity.1 hs, Cfg.isDelimiter_iff, or_assoc]

/-- Stuff (R91) over the reserved list. -/
theorem Cfg.stuff_eq_stuffed (c : Cfg) (b : Byte) : c.stuff b = stuffed c b := by
  simp only [Cfg.stuff, stuffed, Cfg.isReserved_iff]

theorem stuffed_of_mem {c : Cfg} {b : Byte} (h : b ∈ reservedList c) : stuffed c b = [c.esc, b] := if_pos h

theorem stuffed_of_not_mem {c : Cfg} {b : Byte} (h : b ∉ reservedList c) : stuffed c b = [b] := if_neg h

/-- Stuffing adds one byte for each reserved byte (R94). -/
theorem Cfg.stuffAll_length (c : Cfg) (p : List Byte) :
    (c.stuffAll p).length = p.length + p.countP (fun b => decide (b ∈ reservedList c)) := by
  induction p with
  | nil => rfl
  | cons b p ih =>
    rw [Cfg.stuffAll_cons, Cfg.stuff_eq_stuffed, List.length_append, ih, List.length_cons]
    by_cases hb : b ∈ reservedList c
    · rw [stuffed_of_mem hb, List.countP_cons_of_pos (by simpa using hb), List.length_cons,
        List.length_singleton]
      omega
    · rw [stuffed_of_not_mem hb, List.countP_cons_of_neg (by simpa using hb), List.length_singleton]
      omega

/-- Settles O25: stuffing goes byte by byte, so it can be split before and after any byte. -/
theorem stuffedSequenceEscapesEachReservedByteOnce : Obligations.StuffedSequenceEscapesEachReservedByteOnce := by
  refine fun c p => ⟨c.stuffAll_length p, ?_⟩
  rintro u v b rfl
  calc c.stuffAll (u ++ b :: v) = c.stuffAll u ++ (stuffed c b ++ c.stuffAll v) := by
        rw [Cfg.stuffAll_append, Cfg.stuffAll_cons, Cfg.stuff_eq_stuffed]
    _ = c.stuffAll u ++ stuffed c b ++ c.stuffAll v := (List.append_assoc ..).symm

end Sys2Proof.Machine
end

section
/-! The loop of 44_deframer.md R125 over a stuffed payload (41_codec.md R92, R95). -/

namespace Sys2Proof.Machine

/-- The stuffed form of a byte is read as that byte (R95): its ESC makes a reserved byte data, and an unreserved byte
is no delimiter. -/
theorem scanAcc_stuff (c : Cfg) (b : Byte) (acc entry tail : List Byte) (n : Nat) :
    scanAcc c acc entry n (c.stuff b ++ tail) = scanAcc c (acc ++ [b]) entry n tail := by
  unfold Cfg.stuff
  split
  next => exact scanAcc_escaped c acc entry n b tail
  next hb =>
    obtain ⟨hstart, hstop, hesc⟩ := Cfg.ne_delimiters hb
    exact scanAcc_data hesc hstart hstop acc entry n tail

/-- The loop reads a stuffed payload back, whatever the configuration (R95). -/
theorem scanAcc_stuffAll (c : Cfg) (entry tail : List Byte) (n : Nat) (p : List Byte) : ∀ acc : List Byte,
    scanAcc c acc entry n (c.stuffAll p ++ tail) = scanAcc c (acc ++ p) entry n tail := by
  induction p with
  | nil => intro acc; rw [Cfg.stuffAll_nil, List.nil_append, List.append_nil]
  | cons b p ih =>
    intro acc
    calc scanAcc c acc entry n (c.stuffAll (b :: p) ++ tail)
        = scanAcc c acc entry n (c.stuff b ++ (c.stuffAll p ++ tail)) := by
          rw [Cfg.stuffAll_cons, List.append_assoc]
      _ = scanAcc c (acc ++ [b]) entry n (c.stuffAll p ++ tail) := scanAcc_stuff ..
      _ = scanAcc c (acc ++ b :: p) entry n tail := by rw [ih, List.append_assoc, List.singleton_append]

/-- Settles O26, by the loop over a stuffed payload and its steps on an escaped byte and on data. -/
theorem scanReadsAStuffedPayloadBack : Obligations.ScanReadsAStuffedPayloadBack := by
  refine ⟨fun c _ p acc entry tail n => scanAcc_stuffAll c entry tail n p acc,
    fun c acc entry rest n x => scanAcc_escaped c acc entry n x rest, fun c acc entry rest n b hb => ?_⟩
  have hne : b ≠ c.start ∧ b ≠ c.stop ∧ b ≠ c.esc := by simpa using hb
  obtain ⟨hstart, hstop, hesc⟩ := hne
  exact scanAcc_data hesc hstart hstop acc entry n rest

end Sys2Proof.Machine
end

section
/-! The command STUFF (41_codec.md R93). -/

namespace Sys2Proof.Machine

open Sys2Proof.Claims

theorem byte_toNat_zext (b : Byte) : (b.setWidth 16).toNat = b.toNat := BitVec.toNat_setWidth_of_le (by decide)

/-- The response OK as the number of R74. -/
theorem respond_ok (s : State) (x : Byte) (v : Half) :
    s.respond .ok x v = .next (reply s (response 0 x.toNat v.toNat)) := by
  rw [State.respond_eq, respWord_eq_response]
  rfl

/-- Two output bytes: the first in V[7:0], the second in V[15:8] (R76). -/
theorem stuffResponse_pair (s : State) (b0 b1 : Byte) :
    stuffResponse s [b0, b1] = .next (reply s (response 0 2 (b1.toNat * 256 + b0.toNat))) := by
  have hb0 := b0.isLt
  have hb1 := b1.isLt
  have hvalue : (b1.setWidth 16 <<< 8 ||| b0.setWidth 16).toNat = b1.toNat * 256 + b0.toNat :=
    shiftLeft_or_toNat (k := 8) (byte_toNat_zext b1) (byte_toNat_zext b0) hb0 (by omega)
  rw [← hvalue]
  exact respond_ok s 2 _

/-- One output byte, in V[7:0] (R76). -/
theorem stuffResponse_singleton (s : State) (b : Byte) :
    stuffResponse s [b] = .next (reply s (response 0 1 b.toNat)) := by
  rw [← byte_toNat_zext b]
  exact respond_ok s 1 _

/-- ECFG of R144, in every state without a valid configuration. -/
theorem needValid_ecfg {s : State} (h : s.cfgValid = false) (r : Result) :
    s.needValid r = .next (reply s (response 2 0 0)) := by
  rw [needValid_of_invalid h, respWord_eq_response]
  rfl

theorem execStuff_of_valid {s : State} (h : s.cfgValid = true) (b : Byte) :
    execStuff b s = stuffResponse s (stuffed s.cfg b) := by
  rw [execStuff, needValid_of_valid h, Cfg.stuff_eq_stuffed]

/-- Settles O24: the stuffed byte is a pair exactly when the byte is reserved. -/
theorem stuffReturnsOneOrTwoBytes : Obligations.StuffReturnsOneOrTwoBytes := by
  refine fun b s => ⟨fun hinvalid => needValid_ecfg hinvalid _, fun hvalid hmem => ?_, fun hvalid hnot => ?_⟩
  · calc execStuff b s = stuffResponse s [s.cfg.esc, b] := by rw [execStuff_of_valid hvalid, stuffed_of_mem hmem]
      _ = _ := stuffResponse_pair s s.cfg.esc b
  · calc execStuff b s = stuffResponse s [b] := by rw [execStuff_of_valid hvalid, stuffed_of_not_mem hnot]
      _ = _ := stuffResponse_singleton s b

end Sys2Proof.Machine
end

section
/-! The parity of a list (42_error_engine.md R97): the model's counts are those of the statements, and their parity
adds up over the bytes of a list and over the bits in which two bytes differ. -/

namespace Sys2Proof.Machine

open Sys2Proof.Claims

theorem popcount_eq_ones (b : Byte) : popcount b = ones b := List.countP_eq_length_filter.symm

/-- The parity of a number, in the form whose sums are `Nat.bodd_add`. -/
theorem mod_two_eq_one_iff (n : Nat) : n % 2 = 1 ↔ n.bodd = true := by
  rw [Nat.mod_two_of_bodd]
  cases n.bodd <;> simp

theorem decide_mod_two_eq_one (n : Nat) : decide (n % 2 = 1) = n.bodd := by
  simp [mod_two_eq_one_iff]

theorem mod_two_eq_zero_iff (n : Nat) : n % 2 = 0 ↔ n.bodd = false := by
  rw [Nat.mod_two_of_bodd]
  cases n.bodd <;> simp

/-- The parity bit the engine XORs in is that of the statements' count (R109). -/
theorem oddOnes_eq (b : Byte) : oddOnes b = (ones b).bodd := by
  rw [oddOnes, popcount_eq_ones, ← decide_mod_two_eq_one]
  rfl

/-- ParityBit (R97) over the statements' count. -/
theorem parityBit_eq (p : List Byte) : parityBit p = (totalOnes p).bodd := by
  rw [parityBit, funext popcount_eq_ones, ← decide_mod_two_eq_one]
  rfl

theorem parityBit_cons (b : Byte) (p : List Byte) : parityBit (b :: p) = (oddOnes b ^^ parityBit p) := by
  rw [parityBit_eq, parityBit_eq, oddOnes_eq, ← Nat.bodd_add]
  rfl

/-- The positions where exactly one of two predicates holds, counted modulo 2. -/
theorem bodd_countP_xor {α : Type} (f g : α → Bool) (l : List α) :
    (l.countP fun i => f i ^^ g i).bodd = ((l.countP f).bodd ^^ (l.countP g).bodd) := by
  induction l with
  | nil => simp
  | cons i l ih =>
    simp only [List.countP_cons, Nat.bodd_add, ih]
    cases f i <;> cases g i <;> simp

theorem bodd_ones_xor (x y : Byte) : (ones (x ^^^ y)).bodd = ((ones x).bodd ^^ (ones y).bodd) := by
  simp only [ones, BitVec.getLsbD_xor]
  exact bodd_countP_xor _ _ _

/-- The difference of two lists has the parity of both together (R106). -/
theorem bodd_differingBits {p q : List Byte} (h : p.length = q.length) :
    (differingBits p q).bodd = (parityBit p ^^ parityBit q) := by
  induction p generalizing q with
  | nil => rw [List.length_eq_zero_iff.1 h.symm]; rfl
  | cons x p ih =>
    cases q with
    | nil => simp at h
    | cons y q =>
      have hcons : differingBits (x :: p) (y :: q) = ones (x ^^^ y) + differingBits p q := rfl
      rw [hcons, Nat.bodd_add, bodd_ones_xor, ih (by simpa using h), parityBit_cons, parityBit_cons,
        oddOnes_eq, oddOnes_eq]
      simp only [Bool.xor_assoc, Bool.xor_left_comm]

theorem parityBit_eq_iff {p q : List Byte} (h : p.length = q.length) :
    parityBit p = parityBit q ↔ differingBits p q % 2 = 0 := by
  rw [mod_two_eq_zero_iff, bodd_differingBits h]
  cases parityBit p <;> simp

/-- CodeOf in the Parity scheme (R98, R104). -/
theorem Cfg.codeOf_parity {c : Cfg} (hs : c.scheme = .parity) (p : List Byte) :
    c.codeOf p = if totalOnes p % 2 = 0 then c.evenmk else c.oddmk := by
  simp only [Cfg.codeOf, hs, Cfg.parityCode, Cfg.marker, parityBit_eq, mod_two_eq_zero_iff]
  cases (totalOnes p).bodd <;> rfl

/-- Verify in both schemes: the whole byte is the recomputed code (R99, R103, R104). -/
theorem Cfg.verify_iff (c : Cfg) (p : List Byte) (code : Byte) : c.verify p code = true ↔ code = c.codeOf p :=
  beq_iff_eq

/-- Settles O30, by the code of the Parity scheme. -/
theorem parityCodeIsTheMarkerOfTheCount : Obligations.ParityCodeIsTheMarkerOfTheCount := by
  intro c p code hctrl
  have hcode := Cfg.codeOf_parity (Cfg.scheme_eq_parity.2 hctrl) p
  exact ⟨hcode, hcode ▸ c.verify_iff p code⟩

end Sys2Proof.Machine
end

section
/-! The commands of the stand-alone engine (42_error_engine.md R107 to R111). -/

namespace Sys2Proof.Machine

open Sys2Proof.Claims

/-- The remainder moves in the CRC scheme only (R109, R118). -/
theorem Cfg.runningCrc_eq_nextCrc (c : Cfg) (crc b : Byte) : c.runningCrc crc b = nextCrc c crc b := by
  cases hs : c.scheme with
  | crc => simp [Cfg.runningCrc, hs, nextCrc, Cfg.scheme_eq_crc.1 hs]
  | parity => simp [Cfg.runningCrc, hs, nextCrc, Cfg.scheme_eq_parity.1 hs]

theorem xor_oddOnes_eq_nextPar (par : Bool) (b : Byte) : (par ^^ oddOnes b) = nextPar par b := by
  rw [nextPar, oddOnes_eq, decide_mod_two_eq_one]

/-- The code of a running state (R110, R117). -/
theorem Cfg.runningCode_eq (c : Cfg) (crc : Byte) (par : Bool) :
    c.runningCode crc par = if c.ctrl[0] then c.crcFinal crc else if par then c.oddmk else c.evenmk := by
  cases hs : c.scheme with
  | crc => simp [Cfg.runningCode, hs, Cfg.scheme_eq_crc.1 hs]
  | parity => simp [Cfg.runningCode, hs, Cfg.scheme_eq_parity.1 hs, Cfg.marker]

theorem respWord_ok_zero_zero : respWord .ok 0 0 = 0 := by decide

section
variable {s : State} (hvalid : s.cfgValid = true)
include hvalid

theorem exec_engClr_of_valid : exec .engClr s = .next ((s.setEng 0 false).emit 0) := by
  rw [← respWord_ok_zero_zero]
  exact needValid_of_valid hvalid _

theorem exec_engByte_of_valid (b : Byte) : exec (.engByte b) s =
    .next ((s.setEng (s.cfg.runningCrc s.engcrc b) (s.engpar ^^ oddOnes b)).emit 0) := by
  rw [← respWord_ok_zero_zero]
  exact needValid_of_valid hvalid _

theorem exec_engCompute_of_valid : exec .engCompute s =
    .next (reply s (response 0 0 (s.cfg.runningCode s.engcrc s.engpar).toNat)) := by
  rw [← byte_toNat_zext]
  exact (needValid_of_valid hvalid _).trans (respond_ok s 0 _)

theorem exec_engVerify_of_valid (b : Byte) : exec (.engVerify b) s =
    .next (reply s (response 0 0 (if b = s.cfg.runningCode s.engcrc s.engpar then 1 else 0))) := by
  have hvalue : (if b = s.cfg.runningCode s.engcrc s.engpar then 1 else 0 : Half).toNat =
      if b = s.cfg.runningCode s.engcrc s.engpar then 1 else 0 := by split <;> rfl
  rw [← hvalue]
  exact (needValid_of_valid hvalid _).trans (respond_ok s 0 _)

end

/-- Settles O27: ECFG by the guard, and the updates under a valid configuration. -/
theorem engClrAndEngByteUpdateTheEngine : Obligations.EngClrAndEngByteUpdateTheEngine := by
  refine fun b s => ⟨fun hinvalid => ⟨needValid_ecfg hinvalid _, needValid_ecfg hinvalid _⟩,
    fun hvalid => ⟨exec_engClr_of_valid hvalid, ?_⟩⟩
  rw [exec_engByte_of_valid hvalid, Cfg.runningCrc_eq_nextCrc, xor_oddOnes_eq_nextPar]
  rfl

/-- Settles O28: both commands read the code of the running state. -/
theorem engComputeAndVerifyUseTheSameCode : Obligations.EngComputeAndVerifyUseTheSameCode := by
  intro b s code hcode
  rw [← Cfg.runningCode_eq] at hcode
  subst hcode
  exact ⟨fun hinvalid => ⟨needValid_ecfg hinvalid _, needValid_ecfg hinvalid _⟩,
    fun hvalid => ⟨exec_engCompute_of_valid hvalid, exec_engVerify_of_valid hvalid b⟩⟩

/-- The state after ENG_BYTE for every byte of a list, each answered by the word 0. -/
def State.afterEngBytes (s : State) (l : List Byte) : State :=
  { s with
    engcrc := l.foldl s.cfg.runningCrc s.engcrc
    engpar := s.engpar ^^ parityBit l
    resp := s.resp ++ List.replicate l.length 0 }

theorem State.afterEngBytes_nil (s : State) : s.afterEngBytes [] = s := by
  simp [State.afterEngBytes]

theorem State.afterEngBytes_cons (s : State) (b : Byte) (l : List Byte) :
    s.afterEngBytes (b :: l) =
      ((s.setEng (s.cfg.runningCrc s.engcrc b) (s.engpar ^^ oddOnes b)).emit 0).afterEngBytes l := by
  simp [State.afterEngBytes, State.emit, State.setEng, parityBit_cons, List.replicate_succ]

/-- ENG_BYTE for every byte of a list responds OK each time (R109). -/
theorem okRun_engBytes (l : List Byte) : ∀ s : State, s.cfgValid = true →
    okRun (l.map .engByte) s = some (List.replicate l.length 0, s.afterEngBytes l) := by
  induction l with
  | nil => intro s _; rw [State.afterEngBytes_nil]; rfl
  | cons b l ih =>
    intro s hvalid
    have hrest := ih ((s.setEng (s.cfg.runningCrc s.engcrc b) (s.engpar ^^ oddOnes b)).emit 0) hvalid
    rw [List.map_cons, okRun_cons_of_ok (exec_engByte_of_valid hvalid b) (by decide), hrest,
      State.afterEngBytes_cons]
    rfl

/-- From a cleared engine the remainder is CrcAbsorb of the list, and 0 in the Parity scheme (R107). -/
theorem Cfg.foldl_runningCrc (c : Cfg) (l : List Byte) :
    l.foldl c.runningCrc 0 = if c.ctrl[0] then c.crcAbsorb l else 0 := by
  cases hctrl : c.ctrl[0] with
  | true =>
    have hstep : c.runningCrc = c.crcByte := funext₂ fun r b => by
      rw [Cfg.runningCrc_eq_nextCrc, nextCrc, if_pos hctrl]
    rw [hstep, if_pos rfl, Cfg.crcAbsorb]
  | false =>
    have hstep : c.runningCrc = fun r _ => r := funext₂ fun r b => by
      rw [Cfg.runningCrc_eq_nextCrc, nextCrc, if_neg (by simp [hctrl])]
    rw [hstep, List.foldl_fixed]
    rfl

/-- The code of the cleared engine after a list is that of the list (R104, R110). -/
theorem Cfg.runningCode_foldl (c : Cfg) (l : List Byte) :
    c.runningCode (l.foldl c.runningCrc 0) (parityBit l) = c.codeOf l := by
  rw [Cfg.codeOf_eq_runningCode, Cfg.foldl_runningCrc, Cfg.runningCode_eq, Cfg.runningCode_eq]
  split <;> rfl

/-- The state after ENG_CLR and ENG_BYTE for every byte of a list (R107). -/
theorem State.afterEngBytes_cleared (s : State) (l : List Byte) :
    ((s.setEng 0 false).emit 0).afterEngBytes l =
      { s with
        engcrc := l.foldl s.cfg.runningCrc 0
        engpar := parityBit l
        resp := s.resp ++ List.replicate (l.length + 1) 0 } := by
  simp [State.afterEngBytes, State.emit, State.setEng, List.replicate_succ]

/-- Settles O29, by the run of ENG_BYTE from the cleared engine. -/
theorem engineHoldsTheCodeOfItsList : Obligations.EngineHoldsTheCodeOfItsList := by
  intro s l hvalid
  refine ⟨((s.setEng 0 false).emit 0).afterEngBytes l, ?_, ?_, ?_⟩
  · rw [okRun_cons_of_ok (exec_engClr_of_valid hvalid) (by decide),
      okRun_engBytes l ((s.setEng 0 false).emit 0) hvalid]
    rfl
  · rw [State.afterEngBytes_cleared, Cfg.foldl_runningCrc, parityBit_eq, decide_mod_two_eq_one]
  · rw [exec_engCompute_of_valid (s := ((s.setEng 0 false).emit 0).afterEngBytes l) hvalid,
      State.afterEngBytes_cleared, Cfg.runningCode_foldl]

end Sys2Proof.Machine
end

section
/-! Bit patterns as polynomials over GF(2) (10_state.md R28, 20_memory.md R51): their coefficients, and how the
operations on patterns and the message M(x) of 42_error_engine.md R100 read as sums and products. -/

namespace Sys2Proof.Machine

open Sys2Proof.Claims Polynomial

/-- Coefficient i is bit i. -/
theorem bitsPoly_coeff {w : Nat} (v : BitVec w) (i : Nat) :
    (bitsPoly v).coeff i = if v.getLsbD i then 1 else 0 := by
  have hterm : ∀ j, (if v.getLsbD j then X ^ j else 0 : (ZMod 2)[X]).coeff i =
      if i = j then (if v.getLsbD i then 1 else 0) else 0 := by
    intro j
    rw [apply_ite (fun f => coeff f i), coeff_X_pow, coeff_zero]
    split <;> split <;> simp_all
  rw [bitsPoly, finsetSum_coeff, Finset.sum_congr rfl fun j _ => hterm j, Finset.sum_ite_eq]
  split
  next => rfl
  next hi => rw [BitVec.getLsbD_of_ge v i (by simpa using hi)]; rfl

/-- Patterns of any widths with the same bits are the same polynomial. -/
theorem bitsPoly_congr {w w' : Nat} {v : BitVec w} {v' : BitVec w'} (h : ∀ i, v.getLsbD i = v'.getLsbD i) :
    bitsPoly v = bitsPoly v' := by
  ext i
  rw [bitsPoly_coeff, bitsPoly_coeff, h]

theorem bitsPoly_inj {w : Nat} {v v' : BitVec w} : bitsPoly v = bitsPoly v' ↔ v = v' := by
  refine ⟨fun h => BitVec.eq_of_getLsbD_eq fun i _ => ?_, congrArg _⟩
  have hcoeff := congrArg (fun f => coeff f i) h
  simp only [bitsPoly_coeff] at hcoeff
  cases hv : v.getLsbD i <;> cases hv' : v'.getLsbD i <;> simp_all

theorem bitsPoly_zero {w : Nat} : bitsPoly (0 : BitVec w) = 0 := by
  ext i
  simp [bitsPoly_coeff]

/-- XOR is the sum. -/
theorem bitsPoly_xor {w : Nat} (v v' : BitVec w) : bitsPoly (v ^^^ v') = bitsPoly v + bitsPoly v' := by
  ext i
  rw [coeff_add, bitsPoly_coeff, bitsPoly_coeff, bitsPoly_coeff, BitVec.getLsbD_xor]
  cases v.getLsbD i <;> cases v'.getLsbD i <;> simp [CharTwo.add_self_eq_zero]

/-- One step of Horner's rule over GF(2): the next bit becomes the coefficient of x^0 (R101). -/
noncomputable def shiftIn (f : (ZMod 2)[X]) (bit : Bool) : (ZMod 2)[X] := f * X + if bit then 1 else 0

theorem bitsPoly_concat {w : Nat} (v : BitVec w) (bit : Bool) :
    bitsPoly (v.concat bit) = shiftIn (bitsPoly v) bit := by
  ext i
  rw [shiftIn, coeff_add, bitsPoly_coeff, BitVec.getLsbD_concat, apply_ite (fun f => coeff f i), coeff_one, coeff_zero]
  cases i with
  | zero => simp
  | succ i => rw [coeff_mul_X, bitsPoly_coeff]; simp

/-- A number below 2^d is a polynomial of degree below d. -/
theorem bitsPoly_degree_lt_iff {w : Nat} {v : BitVec w} {d : Nat} : (bitsPoly v).degree < d ↔ v.toNat < 2 ^ d := by
  simp only [degree_lt_iff_coeff_zero, bitsPoly_coeff, ite_eq_right_iff, one_ne_zero, imp_false,
    Bool.not_eq_true, ← BitVec.testBit_toNat]
  exact ⟨Nat.lt_pow_two_of_testBit _, fun h i hi =>
    Nat.testBit_lt_two_pow (h.trans_le (Nat.pow_le_pow_right (by decide) hi))⟩

/-- One bit of a byte. -/
theorem bitsPoly_bit {j : Nat} (hj : j < 8) : bitsPoly (1#8 <<< j) = X ^ j := by
  ext i
  rw [bitsPoly_coeff, coeff_X_pow, ← BitVec.twoPow_eq, BitVec.getLsbD_twoPow]
  simp [hj, eq_comm]

/-- The bits of a byte, shifted in from the most significant one on (R101, 20_memory.md R50). -/
theorem foldl_shiftIn_byte (f : (ZMod 2)[X]) (b : Byte) :
    [7, 6, 5, 4, 3, 2, 1, 0].foldl (fun f i => shiftIn f (b.getLsbD i)) f = f * X ^ 8 + bitsPoly b := by
  have hterm : ∀ i, (if b.getLsbD i then X ^ i else 0 : (ZMod 2)[X]) = (if b.getLsbD i then 1 else 0) * X ^ i :=
    fun i => by rw [ite_mul, one_mul, zero_mul]
  simp only [bitsPoly, hterm, Finset.sum_range_succ, Finset.sum_range_zero, List.foldl_cons, List.foldl_nil, shiftIn]
  ring

/-- Zeros shifted in. -/
theorem foldl_shiftIn_zeros (n : Nat) (f : (ZMod 2)[X]) :
    (List.replicate n false).foldl shiftIn f = f * X ^ n := by
  induction n generalizing f with
  | zero => simp
  | succ n ih =>
    rw [List.replicate_succ, List.foldl_cons, ih, shiftIn, if_neg (by decide), add_zero, pow_succ', mul_assoc]

theorem messagePoly_snoc (p : List Byte) (b : Byte) :
    messagePoly (p ++ [b]) = messagePoly p * X ^ 8 + bitsPoly b := by
  induction p with
  | nil => simp [messagePoly]
  | cons x p ih =>
    rw [List.cons_append, messagePoly, messagePoly, ih, List.length_append, List.length_singleton, mul_add 8]
    ring

theorem flipBit_length (p : List Byte) (k : Nat) : (flipBit p k).length = p.length := by
  induction p generalizing k with
  | nil => rfl
  | cons b p ih =>
    unfold flipBit
    split
    · rfl
    · rw [List.length_cons, List.length_cons, ih]

/-- Inverting one bit adds one term x^i (R106). -/
theorem messagePoly_flipBit {p : List Byte} {k : Nat} (hk : k < 8 * p.length) :
    messagePoly (flipBit p k) = messagePoly p + X ^ (8 * p.length - 1 - k) := by
  induction p generalizing k with
  | nil => simp at hk
  | cons b p ih =>
    rw [List.length_cons] at hk ⊢
    unfold flipBit
    split
    next hlow =>
      have hexp : 8 * (p.length + 1) - 1 - k = 7 - k + 8 * p.length := by omega
      rw [messagePoly, messagePoly, bitsPoly_xor, bitsPoly_bit (by omega), hexp, pow_add]
      ring
    next hhigh =>
      have hexp : 8 * (p.length + 1) - 1 - k = 8 * p.length - 1 - (k - 8) := by omega
      rw [messagePoly, messagePoly, flipBit_length, ih (by omega), hexp]
      ring

end Sys2Proof.Machine
end

section
/-! The bit-serial CRC as long division over GF(2) (42_error_engine.md R100 to R103), under a configuration that passes
the checks of 40_control.md R86. -/

namespace Sys2Proof.Machine

open Sys2Proof.Claims Polynomial

/-- The t of a step (R101), with G subtracted where it has the term x^d. -/
def Cfg.reduced (c : Cfg) (r : Byte) (bit : Bool) : BitVec 9 :=
  r.concat bit ^^^ if (r.concat bit).getLsbD c.deg.toNat then c.gen else 0

theorem Cfg.crcStep_eq (c : Cfg) (r : Byte) (bit : Bool) :
    c.crcStep r bit = (c.reduced r bit).setWidth 8 &&& BitVec.ofNat 8 (2 ^ c.deg.toNat - 1) := by
  unfold Cfg.crcStep Cfg.reduced
  dsimp only
  split
  · rfl
  · rw [show (0 : BitVec 9) = 0#9 from rfl, BitVec.xor_zero]

theorem Cfg.bitsPoly_reduced (c : Cfg) (r : Byte) (bit : Bool) :
    bitsPoly (c.reduced r bit) = shiftIn (bitsPoly r) bit +
      bitsPoly c.gen * (if (r.concat bit).getLsbD c.deg.toNat then 1 else 0) := by
  rw [Cfg.reduced, bitsPoly_xor, bitsPoly_concat, apply_ite bitsPoly, bitsPoly_zero, mul_ite, mul_one, mul_zero]

section
variable {c : Cfg} (hv : c.Valid) (hs : c.scheme = .crc)
include hv hs

/-- No bit of GEN stands above bit d (check 6 of R86). -/
theorem Cfg.gen_getLsbD_of_gt {i : Nat} (hi : c.deg.toNat < i) : c.gen.getLsbD i = false := by
  obtain ⟨-, -, -, hdiv, -⟩ := Cfg.generator_of_valid hv hs
  have hlt : c.gen.toNat < 2 ^ (c.deg.toNat + 1) := (Nat.div_eq_zero_iff_lt (Nat.two_pow_pos _)).1 hdiv
  rw [← BitVec.testBit_toNat]
  exact Nat.testBit_lt_two_pow (hlt.trans_le (Nat.pow_le_pow_right (by decide) hi))

theorem Cfg.gen_coeff_deg : (bitsPoly c.gen).coeff c.deg.toNat = 1 := by
  obtain ⟨-, -, hlead, -, -⟩ := Cfg.generator_of_valid hv hs
  rw [bitsPoly_coeff, if_pos hlead]

theorem Cfg.gen_natDegree_le : (bitsPoly c.gen).natDegree ≤ c.deg.toNat :=
  natDegree_le_iff_coeff_eq_zero.2 fun i hi => by
    rw [bitsPoly_coeff, Cfg.gen_getLsbD_of_gt hv hs hi]
    rfl

/-- G has the term x^d and none above (R100). -/
theorem Cfg.gen_monic : (bitsPoly c.gen).Monic :=
  monic_of_natDegree_le_of_coeff_eq_one _ (Cfg.gen_natDegree_le hv hs) (Cfg.gen_coeff_deg hv hs)

theorem Cfg.gen_natDegree : (bitsPoly c.gen).natDegree = c.deg.toNat :=
  natDegree_eq_of_le_of_coeff_ne_zero (Cfg.gen_natDegree_le hv hs)
    (by rw [Cfg.gen_coeff_deg hv hs]; exact one_ne_zero)

theorem Cfg.gen_degree : (bitsPoly c.gen).degree = c.deg.toNat := by
  rw [degree_eq_natDegree (Cfg.gen_monic hv hs).ne_zero, Cfg.gen_natDegree hv hs]

/-- A byte is its own remainder exactly when it has no bit at d or above. -/
theorem Cfg.degree_lt_gen_iff (r : Byte) :
    (bitsPoly r).degree < (bitsPoly c.gen).degree ↔ r.toNat < 2 ^ c.deg.toNat := by
  rw [Cfg.gen_degree hv hs, bitsPoly_degree_lt_iff]

/-- No bit is left at d or above: the subtraction takes the term x^d away (R101). -/
theorem Cfg.reduced_getLsbD_of_ge {r : Byte} (hr : r.toNat < 2 ^ c.deg.toNat) (bit : Bool) {i : Nat}
    (hi : c.deg.toNat ≤ i) : (c.reduced r bit).getLsbD i = false := by
  obtain ⟨hpos, -, hlead, -, -⟩ := Cfg.generator_of_valid hv hs
  rcases hi.eq_or_lt with rfl | hgt
  · rw [Cfg.reduced, BitVec.getLsbD_xor]
    cases (r.concat bit).getLsbD c.deg.toNat with
    | true => simp [hlead]
    | false => simp
  · have ht : (r.concat bit).getLsbD i = false := by
      rw [BitVec.getLsbD_concat, if_neg (by omega), ← BitVec.testBit_toNat]
      exact Nat.testBit_lt_two_pow (hr.trans_le (Nat.pow_le_pow_right (by decide) (by omega)))
    rw [Cfg.reduced, BitVec.getLsbD_xor, ht]
    split <;> simp [Cfg.gen_getLsbD_of_gt hv hs hgt]

/-- So neither the cut to 8 bits nor the mask of a step takes a bit away (R101). -/
theorem Cfg.crcStep_getLsbD {r : Byte} (hr : r.toNat < 2 ^ c.deg.toNat) (bit : Bool) (i : Nat) :
    (c.crcStep r bit).getLsbD i = (c.reduced r bit).getLsbD i := by
  obtain ⟨-, hdeg, -, -, -⟩ := Cfg.generator_of_valid hv hs
  rw [Cfg.crcStep_eq, BitVec.getLsbD_and, BitVec.getLsbD_setWidth, BitVec.getLsbD_ofNat, Nat.testBit_two_pow_sub_one]
  rcases Nat.lt_or_ge i c.deg.toNat with hi | hi
  · simp [hi, hi.trans_le hdeg]
  · simp [Cfg.reduced_getLsbD_of_ge hv hs hr bit hi]

/-- One step of the bit-serial division is one step of the division: (a x + b) mod G = ((a mod G) x + b) mod G
(R101). -/
theorem Cfg.bitsPoly_crcStep {r : Byte} {f : (ZMod 2)[X]} (hr : bitsPoly r = f %ₘ bitsPoly c.gen) (bit : Bool) :
    bitsPoly (c.crcStep r bit) = shiftIn f bit %ₘ bitsPoly c.gen := by
  have hmonic := Cfg.gen_monic hv hs
  have hlt : r.toNat < 2 ^ c.deg.toNat := by
    rw [← Cfg.degree_lt_gen_iff hv hs, hr]
    exact degree_modByMonic_lt f hmonic
  have hstep := (bitsPoly_congr (Cfg.crcStep_getLsbD hv hs hlt bit)).trans (c.bitsPoly_reduced r bit)
  generalize (if (r.concat bit).getLsbD c.deg.toNat then 1 else 0 : (ZMod 2)[X]) = m at hstep
  refine (div_modByMonic_unique (f /ₘ bitsPoly c.gen * X + m) _ hmonic ⟨?_, ?_⟩).2.symm
  · calc bitsPoly (c.crcStep r bit) + bitsPoly c.gen * (f /ₘ bitsPoly c.gen * X + m)
        = shiftIn (f %ₘ bitsPoly c.gen + bitsPoly c.gen * (f /ₘ bitsPoly c.gen)) bit
            + (bitsPoly c.gen * m + bitsPoly c.gen * m) := by rw [hstep, hr, shiftIn, shiftIn]; ring
      _ = shiftIn f bit := by rw [modByMonic_add_div, CharTwo.add_self_eq_zero, add_zero]
  · exact (Cfg.degree_lt_gen_iff hv hs _).2 (c.crcStep_lt r bit)

/-- A run of steps over any list of bits (R101). -/
theorem Cfg.bitsPoly_foldl_crcStep (l : List Bool) : ∀ {r : Byte} {f : (ZMod 2)[X]},
    bitsPoly r = f %ₘ bitsPoly c.gen →
      bitsPoly (l.foldl c.crcStep r) = l.foldl shiftIn f %ₘ bitsPoly c.gen := by
  induction l with
  | nil => exact id
  | cons bit l ih => exact fun hr => ih (Cfg.bitsPoly_crcStep hv hs hr bit)

theorem Cfg.bitsPoly_crcByte {r : Byte} {f : (ZMod 2)[X]} (hr : bitsPoly r = f %ₘ bitsPoly c.gen) (b : Byte) :
    bitsPoly (c.crcByte r b) = (f * X ^ 8 + bitsPoly b) %ₘ bitsPoly c.gen := by
  rw [← foldl_shiftIn_byte, Cfg.crcByte, ← List.foldl_map, ← List.foldl_map (g := shiftIn)]
  exact Cfg.bitsPoly_foldl_crcStep hv hs _ hr

/-- CrcAbsorb(P) = M(x) mod G(x) (R101). -/
theorem Cfg.bitsPoly_crcAbsorb (p : List Byte) :
    bitsPoly (c.crcAbsorb p) = messagePoly p %ₘ bitsPoly c.gen := by
  induction p using List.reverseRecOn with
  | nil => rw [Cfg.crcAbsorb_nil, bitsPoly_zero, messagePoly, zero_modByMonic]
  | append_singleton p b ih => rw [Cfg.crcAbsorb_snoc, Cfg.bitsPoly_crcByte hv hs ih, messagePoly_snoc]

/-- CrcCode(P) = M(x) x^d mod G(x) (R100, R102). -/
theorem Cfg.bitsPoly_crcCode (p : List Byte) :
    bitsPoly (c.crcCode p) = (messagePoly p * X ^ c.deg.toNat) %ₘ bitsPoly c.gen := by
  rw [← foldl_shiftIn_zeros]
  exact Cfg.bitsPoly_foldl_crcStep hv hs _ (Cfg.bitsPoly_crcAbsorb hv hs p)

/-- Payload and code byte together leave the sum of the code and the byte, when d = 8 (R103). -/
theorem Cfg.bitsPoly_crcAbsorb_snoc (hdeg : c.deg.toNat = 8) (p : List Byte) (code : Byte) :
    bitsPoly (c.crcAbsorb (p ++ [code])) = bitsPoly (c.crcCode p) + bitsPoly code := by
  have hcode : bitsPoly code %ₘ bitsPoly c.gen = bitsPoly code :=
    (modByMonic_eq_self_iff (Cfg.gen_monic hv hs)).2
      ((Cfg.degree_lt_gen_iff hv hs code).2 (by rw [hdeg]; exact code.isLt))
  rw [Cfg.bitsPoly_crcAbsorb hv hs, messagePoly_snoc, add_modByMonic, hcode, Cfg.bitsPoly_crcCode hv hs, hdeg]

theorem Cfg.crcAbsorb_snoc_eq_zero_iff (hdeg : c.deg.toNat = 8) (p : List Byte) (code : Byte) :
    c.crcAbsorb (p ++ [code]) = 0 ↔ code = c.crcCode p := by
  rw [← bitsPoly_inj, Cfg.bitsPoly_crcAbsorb_snoc hv hs hdeg, bitsPoly_zero, CharTwo.add_eq_zero, bitsPoly_inj,
    eq_comm]

/-- G has the term 1, so it has no factor in common with a power of x (check 7 of R86, R106). -/
theorem Cfg.gen_isCoprime_X_pow (n : Nat) : IsCoprime (bitsPoly c.gen) (X ^ n) := by
  obtain ⟨-, -, -, -, hlow⟩ := Cfg.generator_of_valid hv hs
  have hnot : ¬ X ∣ bitsPoly c.gen := by
    rw [X_dvd_iff, bitsPoly_coeff, if_pos hlow]
    exact one_ne_zero
  exact (prime_X.irreducible.coprime_iff_not_dvd.2 hnot).symm.pow_right

/-- G, of degree at least 1, divides no single term (R106). -/
theorem Cfg.gen_not_dvd_X_pow (n : Nat) : ¬ bitsPoly c.gen ∣ X ^ n := by
  intro hdvd
  obtain ⟨hpos, -, -, -, -⟩ := Cfg.generator_of_valid hv hs
  have hunit : IsUnit (bitsPoly c.gen) := (Cfg.gen_isCoprime_X_pow hv hs n).isUnit_of_dvd' dvd_rfl hdvd
  have hzero := natDegree_eq_zero_of_isUnit hunit
  rw [Cfg.gen_natDegree hv hs] at hzero
  omega

/-- The errors a generator is blind to are the multiples of G (R106). -/
theorem Cfg.crcCode_eq_iff (p q : List Byte) :
    c.crcCode p = c.crcCode q ↔ bitsPoly c.gen ∣ messagePoly p + messagePoly q := by
  have hshift : (messagePoly p + messagePoly q) * X ^ c.deg.toNat %ₘ bitsPoly c.gen =
      bitsPoly (c.crcCode p) + bitsPoly (c.crcCode q) := by
    rw [add_mul, add_modByMonic, Cfg.bitsPoly_crcCode hv hs, Cfg.bitsPoly_crcCode hv hs]
  calc c.crcCode p = c.crcCode q
      ↔ bitsPoly c.gen ∣ (messagePoly p + messagePoly q) * X ^ c.deg.toNat := by
        rw [← modByMonic_eq_zero_iff_dvd (Cfg.gen_monic hv hs), hshift, CharTwo.add_eq_zero, bitsPoly_inj]
    _ ↔ bitsPoly c.gen ∣ messagePoly p + messagePoly q :=
        ⟨(Cfg.gen_isCoprime_X_pow hv hs _).dvd_of_dvd_mul_right, fun h => h.mul_right _⟩

/-- A single inverted bit changes the code (R106). -/
theorem Cfg.crcCode_flipBit_ne {p : List Byte} {k : Nat} (hk : k < 8 * p.length) :
    c.crcCode (flipBit p k) ≠ c.crcCode p := by
  have hdiff : messagePoly (flipBit p k) + messagePoly p = X ^ (8 * p.length - 1 - k) := by
    rw [messagePoly_flipBit hk, add_right_comm, CharTwo.add_self_eq_zero, zero_add]
  rw [Ne, Cfg.crcCode_eq_iff hv hs, hdiff]
  exact Cfg.gen_not_dvd_X_pow hv hs _

end

/-- CodeOf in the CRC scheme (R104). -/
theorem Cfg.codeOf_crc {c : Cfg} (hs : c.scheme = .crc) (p : List Byte) : c.codeOf p = c.crcCode p := by
  rw [Cfg.codeOf, hs]

/-- Verify in the CRC scheme (R103). -/
theorem Cfg.verify_crc_iff {c : Cfg} (hs : c.scheme = .crc) (p : List Byte) (code : Byte) :
    c.verify p code = true ↔ code = c.crcCode p := by
  rw [Cfg.verify_iff, Cfg.codeOf_crc hs]

/-- Settles O31, by the division that the bit-serial steps make. -/
theorem crcIsThePolynomialRemainder : Obligations.CrcIsThePolynomialRemainder := fun c p hv hs =>
  ⟨Cfg.gen_monic hv hs, Cfg.gen_natDegree hv hs, Cfg.bitsPoly_crcAbsorb hv hs p, Cfg.bitsPoly_crcCode hv hs p,
    c.crcCode_lt p⟩

/-- Settles O33: the recomputed code is below 2^d, and payload and code leave remainder 0 exactly when the code is the
recomputed one. -/
theorem crcVerifyFormulations : Obligations.CrcVerifyFormulations := by
  intro c p code hv hs
  have hverify := Cfg.verify_crc_iff hs p code
  refine ⟨hverify, fun hdeg => hverify.trans (Cfg.crcAbsorb_snoc_eq_zero_iff hv hs hdeg p code).symm, fun hhigh => ?_⟩
  rw [Bool.eq_false_iff, Ne, hverify]
  rintro rfl
  exact absurd (c.crcCode_lt p) (Nat.not_lt.2 hhigh)

/-- Settles O32: the difference of two lists as a polynomial, the single term of one bit, and the parity of the
difference. -/
theorem errorsTheCodesDetect : Obligations.ErrorsTheCodesDetect := by
  refine ⟨fun c p q hv hs _ => Cfg.crcCode_eq_iff hv hs p q, fun c p k hv hs hk => ?_, fun p q => parityBit_eq_iff⟩
  rw [Bool.eq_false_iff, Ne, Cfg.verify_crc_iff hs, Cfg.codeOf_crc hs]
  exact (Cfg.crcCode_flipBit_ne hv hs hk).symm

end Sys2Proof.Machine
end

section
/-! The commands of the framer (43_framer.md R117 to R121): the bytes each pushes, written with the statements' own
functions, and how many they can be (R119). -/

namespace Sys2Proof.Machine

open Sys2Proof.Claims

/-- The delimiters (R26) as the list the statements write. -/
theorem Cfg.isDelimiter_iff_mem (c : Cfg) (b : Byte) : c.isDelimiter b = true ↔ b ∈ [c.start, c.stop, c.esc] := by
  simp [Cfg.isDelimiter_iff]

/-- CloseBytes (R117) over the delimiters' list. -/
theorem Cfg.closeBytes_eq_closing (c : Cfg) (crc : Byte) (par : Bool) : c.closeBytes crc par = closing c crc par := by
  simp only [Cfg.closeBytes, closing, ← Cfg.runningCode_eq, Cfg.scheme_eq_crc, Cfg.isDelimiter_iff_mem]
  cases hpos : c.codePos with
  | beforeStop => simp [Cfg.codePos_eq_beforeStop.1 hpos]
  | afterStop => simp [Cfg.codePos_eq_afterStop.1 hpos]

theorem closing_length_le (c : Cfg) (crc : Byte) (par : Bool) : (closing c crc par).length ≤ 3 := by
  rw [← Cfg.closeBytes_eq_closing]
  exact (c.closeBytes_length crc par).2

/-- At most START, two bytes of Stuff and three bytes of CloseBytes (R119). -/
theorem txByteOut_length_le (s : State) (b : Byte) : (txByteOut s b).length ≤ 6 := by
  have hopen : (openBytes s).length ≤ 1 := by unfold openBytes; split <;> simp
  have hstuff := s.cfg.stuff_length_le b
  have hclose := closing_length_le s.cfg (nextCrc s.cfg (openCrc s) b) (nextPar (openPar s) b)
  rw [Cfg.stuff_eq_stuffed] at hstuff
  unfold txByteOut
  split <;> simp only [List.length_append, List.length_nil] <;> omega

section
variable {s : State} {out : List Byte} {inf : Bool} {cnt : Half} {crc : Byte} {par : Bool}

/-- EFULL as the number of R74. -/
theorem sendBytes_efull (h : s.params.txqDepth - s.txq.length < out.length) :
    s.sendBytes out inf cnt crc par = .next (reply s (response 3 0 0)) := by
  rw [State.sendBytes_of_full h, respWord_eq_response]
  rfl

/-- The bytes that fit are pushed, and X counts them: no more bytes than X can hold are ever sent (R119). -/
theorem sendBytes_ok (hcount : out.length ≤ 6) (h : out.length ≤ s.params.txqDepth - s.txq.length) :
    s.sendBytes out inf cnt crc par = .next (reply
      { s with txq := s.txq ++ out, txinf := inf, txcnt := cnt, txcrc := crc, txpar := par }
      (response 0 out.length 0)) := by
  have hx : (BitVec.ofNat 8 out.length).toNat = out.length := by
    rw [BitVec.toNat_ofNat]
    exact Nat.mod_eq_of_lt (by omega)
  rw [State.sendBytes_of_fits h, respWord_eq_response, hx]
  rfl

theorem sendBytes_txq_length_le {t : State} (h : s.sendBytes out inf cnt crc par = .next t) :
    t.txq.length ≤ s.txq.length + out.length := by
  unfold State.sendBytes at h
  split at h
  next =>
    cases h
    exact Nat.le_add_right ..
  next =>
    cases h
    exact (List.length_append ..).le

end

/-- TX_BYTE in the statements' terms; the count is compared with F as a number, which the 16-bit counter allows while it
is below F (R118). -/
theorem exec_txByte_of_valid {s : State} (hvalid : s.cfgValid = true) (hcount : openCount s < s.cfg.fmax.toNat)
    (b : Byte) : exec (.txByte b) s =
      if openCount s + 1 = s.cfg.fmax.toNat then s.sendBytes (txByteOut s b) false 0 0 false
      else s.sendBytes (txByteOut s b) true (BitVec.ofNat 16 (openCount s + 1))
        (nextCrc s.cfg (openCrc s) b) (nextPar (openPar s) b) := by
  have hcnt : (if s.txinf then s.txcnt else 0) + 1 = BitVec.ofNat 16 (openCount s + 1) := by
    unfold openCount
    split <;> simp [BitVec.ofNat_add]
  have hlast : BitVec.ofNat 16 (openCount s + 1) = s.cfg.fmax ↔ openCount s + 1 = s.cfg.fmax.toNat := by
    have hfmax := s.cfg.fmax.isLt
    rw [← BitVec.toNat_inj, BitVec.toNat_ofNat, Nat.mod_eq_of_lt (by omega)]
  refine (needValid_of_valid hvalid _).trans ?_
  simp only [hcnt, hlast, Cfg.runningCrc_eq_nextCrc, xor_oddOnes_eq_nextPar, Cfg.stuff_eq_stuffed,
    Cfg.closeBytes_eq_closing, txByteOut, openBytes, openCrc, openPar]
  by_cases hfull : openCount s + 1 = s.cfg.fmax.toNat
  · simp only [if_pos hfull]
  · simp only [if_neg hfull, List.append_nil]

theorem exec_txEnd_of_open {s : State} (hvalid : s.cfgValid = true) (hopen : s.txinf = true) :
    exec .txEnd s = s.sendBytes (closing s.cfg s.txcrc s.txpar) false 0 0 false := by
  rw [← Cfg.closeBytes_eq_closing]
  exact (needValid_of_valid hvalid _).trans (if_pos hopen)

theorem exec_txEnd_of_closed {s : State} (hvalid : s.cfgValid = true) (hclosed : s.txinf = false) :
    exec .txEnd s = .next (s.emit 0) := by
  rw [← respWord_ok_zero_zero]
  exact (needValid_of_valid hvalid _).trans (if_neg (by simp [hclosed]))

theorem exec_txPop_cons {s : State} {b : Byte} {rest : List Byte} (h : s.txq = b :: rest) :
    exec .txPop s = .next ((s.setTxq rest).emit (respWord .ok 0 (b.setWidth 16))) := by
  simp [exec, execTxPop, h]

theorem exec_txPop_nil {s : State} (h : s.txq = []) : exec .txPop s = .next (s.emit (respWord .eempty 0 0)) := by
  simp [exec, execTxPop, h]

/-- Settles O36, by the two forms of TXQ. -/
theorem txPopTakesTheOldestByte : Obligations.TxPopTakesTheOldestByte := by
  refine fun s => ⟨fun hempty => ?_, fun b rest hcons => ?_⟩
  · rw [exec_txPop_nil hempty, respWord_eq_response]
    rfl
  · rw [exec_txPop_cons hcons, respWord_eq_response, byte_toNat_zext]
    rfl

/-- Settles O35: without an open frame nothing is sent, and otherwise the trailer. -/
theorem txEndClosesTheFrame : Obligations.TxEndClosesTheFrame := by
  refine fun s => ⟨fun hinvalid => needValid_ecfg hinvalid _, exec_txEnd_of_closed, fun hvalid hopen hfull => ?_,
    fun hvalid hopen hfits => ?_⟩
  · rw [exec_txEnd_of_open hvalid hopen]
    exact sendBytes_efull hfull
  · rw [exec_txEnd_of_open hvalid hopen]
    exact sendBytes_ok ((closing_length_le ..).trans (by decide)) hfits

/-- The count of the open frame is below F while a configuration is in force (R36). -/
theorem openCount_lt_fmax {s : State} (hinv : s.Inv) (hvalid : s.cfgValid = true) :
    openCount s < s.cfg.fmax.toNat := by
  have hlt := hinv.openCount_lt hvalid
  rwa [apply_ite BitVec.toNat] at hlt

/-- Settles O34: whichever way the frame goes on, TX_BYTE sends the bytes of `txByteOut`. -/
theorem txBytePushesTheNextBytes : Obligations.TxBytePushesTheNextBytes := by
  refine fun b s => ⟨fun hinvalid => needValid_ecfg hinvalid _, fun hvalid hinv hfull => ?_,
    fun hvalid hinv hfits => ?_⟩
  · rw [exec_txByte_of_valid hvalid (openCount_lt_fmax hinv hvalid)]
    split <;> exact sendBytes_efull hfull
  · rw [exec_txByte_of_valid hvalid (openCount_lt_fmax hinv hvalid)]
    split <;> exact sendBytes_ok (txByteOut_length_le s b) hfits

/-- The result of a command that sends at most n bytes, once a configuration is in force. -/
inductive SendsAtMost (n : Nat) (s : State) : Result → Prop where
  | sends {out : List Byte} {inf : Bool} {cnt : Half} {crc : Byte} {par : Bool} (bound : out.length ≤ n) :
      SendsAtMost n s (s.needValid (s.sendBytes out inf cnt crc par))

/-- TX_BYTE, also in a state without the invariant (R119). -/
theorem exec_txByte_sendsAtMost (b : Byte) (s : State) : SendsAtMost 6 s (exec (.txByte b) s) := by
  have hout : ((if s.txinf then [] else [s.cfg.start]) ++ s.cfg.stuff b).length ≤ 3 := by
    have hstuff := s.cfg.stuff_length_le b
    split <;> simp <;> omega
  refine iteInduction (motive := fun r => SendsAtMost 6 s (s.needValid r)) (fun _ => .sends ?last)
    (fun _ => .sends ?more)
  case last =>
    rw [List.length_append]
    exact Nat.add_le_add hout (s.cfg.closeBytes_length _ _).2
  case more => exact hout.trans (by decide)

/-- TX_END: with no frame open it sends nothing and keeps the framer's state. -/
theorem exec_txEnd_sendsAtMost (s : State) : SendsAtMost 3 s (exec .txEnd s) := by
  have hnothing : s.sendBytes [] s.txinf s.txcnt s.txcrc s.txpar = s.respond .ok 0 0 := by
    rw [State.sendBytes_of_fits (Nat.zero_le _), List.append_nil]
    rfl
  refine iteInduction (motive := fun r => SendsAtMost 3 s (s.needValid r)) (fun _ => ?closes) (fun _ => ?idle)
  case closes => exact .sends (s.cfg.closeBytes_length _ _).2
  case idle =>
    rw [← hnothing]
    exact .sends (Nat.zero_le _)

theorem SendsAtMost.txq_length_le {n : Nat} {s t : State} (h : SendsAtMost n s (.next t)) :
    t.txq.length ≤ s.txq.length + n := by
  generalize hr : Host.Outcome.next t = r at h
  cases h with
  | sends bound =>
    cases hvalid : s.cfgValid with
    | true =>
      rw [needValid_of_valid hvalid] at hr
      exact (sendBytes_txq_length_le hr.symm).trans (Nat.add_le_add_left bound _)
    | false =>
      rw [needValid_of_invalid hvalid] at hr
      cases hr
      exact Nat.le_add_right ..

theorem SendsAtMost.okRun_of_empty {n : Nat} {i : Instr} {s : State} (h : SendsAtMost n s (exec i s))
    (hvalid : s.cfgValid = true) (hempty : s.txq = []) (hdepth : n ≤ s.params.txqDepth) :
    ∃ q, okRun [i] s = some q := by
  generalize hr : exec i s = r at h
  cases h with
  | sends bound =>
    have hroom : n ≤ s.txFree := by simpa [State.txFree, hempty] using hdepth
    rw [needValid_of_valid hvalid, State.sendBytes_of_fits (bound.trans hroom)] at hr
    exact ⟨_, okRun_cons_of_ok hr ((responseOk_respWord ..).2 rfl)⟩

/-- Settles O37, from the bound of each command; R13 gives TXQ the six bytes that one TX_BYTE can need. -/
theorem txOutputIsBounded : Obligations.TxOutputIsBounded := by
  refine ⟨fun b s t hexec => (hexec ▸ exec_txByte_sendsAtMost b s).txq_length_le,
    fun s t hexec => (hexec ▸ exec_txEnd_sendsAtMost s).txq_length_le, fun b s hparams hvalid hempty => ?_⟩
  obtain ⟨_, _, hdepth, _⟩ := hparams
  exact ⟨(exec_txByte_sendsAtMost b s).okRun_of_empty hvalid hempty hdepth,
    (exec_txEnd_sendsAtMost s).okRun_of_empty hvalid hempty (by omega)⟩

end Sys2Proof.Machine
end

section
/-! The wire format (43_framer.md R112 to R115): the slices of a payload and the frame of a chunk. -/

namespace Sys2Proof.Machine

open Sys2Proof.Claims

/-- Induction along the slices of a payload (R112): the first slice goes away. -/
theorem chunks_induction {motive : List Byte → Prop} {f : Nat} (hf : 1 ≤ f) (nil : motive [])
    (slice : ∀ p, p ≠ [] → motive (p.drop f) → motive p) (p : List Byte) : motive p := by
  induction hn : p.length using Nat.strong_induction_on generalizing p with
  | _ n ih =>
    by_cases hp : p = []
    · exact hp ▸ nil
    · have hpos := List.length_pos_iff.2 hp
      exact slice p hp (ih _ (by rw [List.length_drop]; omega) _ rfl)

section
variable {f : Nat} (hf : 1 ≤ f) (p : List Byte)
include hf

theorem chunks_flatten : (chunks f p).flatten = p := by
  induction p using chunks_induction hf with
  | nil => rfl
  | slice p hp ih => rw [chunks_of_ne_nil hf hp, List.flatten_cons, ih, List.take_append_drop]

theorem chunks_length : (chunks f p).length = (p.length + f - 1) / f := by
  induction p using chunks_induction hf with
  | nil => exact (Nat.div_eq_of_lt (by rw [List.length_nil]; omega)).symm
  | slice p hp ih =>
    have hpos := List.length_pos_iff.2 hp
    rw [chunks_of_ne_nil hf hp, List.length_cons, ih, List.length_drop]
    by_cases hlen : f ≤ p.length
    · rw [show p.length + f - 1 = p.length - f + f - 1 + f by omega, Nat.add_div_right _ hf]
    · rw [show p.length + f - 1 = p.length - 1 + f by omega, Nat.add_div_right _ hf,
        Nat.div_eq_of_lt (by omega), Nat.div_eq_of_lt (by omega)]

theorem chunks_sizes : ∀ x ∈ chunks f p, 1 ≤ x.length ∧ x.length ≤ f := by
  induction p using chunks_induction hf with
  | nil => nofun
  | slice p hp ih =>
    have hpos := List.length_pos_iff.2 hp
    rw [chunks_of_ne_nil hf hp, List.forall_mem_cons, List.length_take]
    exact ⟨by omega, ih⟩

/-- Only the last slice can be short: after a short one nothing remains. -/
theorem chunks_dropLast_sizes : ∀ x ∈ (chunks f p).dropLast, x.length = f := by
  induction p using chunks_induction hf with
  | nil => nofun
  | slice p hp ih =>
    rw [chunks_of_ne_nil hf hp]
    by_cases hrest : p.drop f = []
    · rw [hrest]; nofun
    · have hlen : f < p.length := Nat.lt_of_not_le (mt List.drop_eq_nil_of_le hrest)
      have hne : chunks f (p.drop f) ≠ [] := by rw [chunks_of_ne_nil hf hrest]; nofun
      rw [List.dropLast_cons_of_ne_nil hne, List.forall_mem_cons, List.length_take]
      exact ⟨by omega, ih⟩

end

/-- Settles O38, each part by induction along the slices. -/
theorem chunksSliceThePayload : Obligations.ChunksSliceThePayload := fun f p hf =>
  ⟨chunks_flatten hf p, chunks_length hf p, chunks_sizes hf p, chunks_dropLast_sizes hf p, chunks_nil f⟩

/-- CodeBytes and Trailer of R113 and R114 in the statements' terms. -/
theorem Cfg.trailerOf_eq (c : Cfg) (code : Byte) : c.trailerOf code =
    if c.ctrl[1] then [c.stop, code]
    else (if c.ctrl[0] = true ∧ code ∈ [c.start, c.stop, c.esc] then [c.esc, code] else [code]) ++ [c.stop] := by
  cases hpos : c.codePos with
  | afterStop => simp only [Cfg.trailerOf, hpos, Cfg.codePos_eq_afterStop.1 hpos, if_true]
  | beforeStop =>
    simp only [Cfg.trailerOf, hpos, Cfg.codeBytes, Cfg.codePos_eq_beforeStop.1 hpos, Cfg.scheme_eq_crc,
      Cfg.isDelimiter_iff_mem, true_and]
    rfl

/-- CloseBytes is the trailer of the running code (R114, R117). -/
theorem Cfg.closeBytes_eq_trailerOf (c : Cfg) (crc : Byte) (par : Bool) :
    c.closeBytes crc par = c.trailerOf (c.runningCode crc par) := by
  rw [Cfg.closeBytes_eq_closing, Cfg.trailerOf_eq, Cfg.runningCode_eq, closing]
  split
  · rfl
  · rw [apply_ite (· ++ [c.stop])]
    rfl

/-- After the bytes of a chunk, the framer's running state gives the chunk's trailer (R117). -/
theorem Cfg.closeBytes_foldl (c : Cfg) (p : List Byte) :
    c.closeBytes (p.foldl c.runningCrc 0) (parityBit p) = c.trailerOf (c.codeOf p) := by
  rw [Cfg.closeBytes_eq_trailerOf, Cfg.runningCode_foldl]

theorem Cfg.stuffAll_eq_flatMap (c : Cfg) (p : List Byte) : c.stuffAll p = p.flatMap (stuffed c) :=
  congrArg p.flatMap (funext c.stuff_eq_stuffed)

/-- START, the stuffed bytes and a trailer of two or three bytes (R115). -/
theorem Cfg.frameBytes_length (c : Cfg) (p : List Byte) : ∃ n, 2 ≤ n ∧ n ≤ 3 ∧
    (c.frameBytes p).length = 1 + p.length + p.countP (fun b => decide (b ∈ reservedList c)) + n := by
  refine ⟨(c.trailerOf (c.codeOf p)).length, ?_, ?_, ?_⟩
  · rw [← Cfg.closeBytes_foldl]
    exact (c.closeBytes_length _ _).1
  · rw [← Cfg.closeBytes_foldl]
    exact (c.closeBytes_length _ _).2
  · rw [Cfg.frameBytes, List.length_append, List.length_append, Cfg.stuffAll_length, List.length_singleton,
      Nat.add_assoc 1 p.length]

/-- Settles O39: the trailer written out, the trailer of the running state, and the frame's length. -/
theorem frameBytesOfAChunk : Obligations.FrameBytesOfAChunk := by
  intro c p
  obtain ⟨n, hmin, hmax, hlength⟩ := c.frameBytes_length p
  have hreserved := List.countP_le_length (p := fun b => decide (b ∈ reservedList c)) (l := p)
  refine ⟨?_, ?_, by omega, by omega, by omega⟩
  · rw [← Cfg.trailerOf_eq, ← Cfg.stuffAll_eq_flatMap, Cfg.frameBytes]
  · rw [← Cfg.foldl_runningCrc, decide_mod_two_eq_one, ← parityBit_eq, Cfg.closeBytes_foldl,
      ← Cfg.stuffAll_eq_flatMap, Cfg.frameBytes]

end Sys2Proof.Machine
end

section
/-! The stream of wire bytes that TX_BYTE and TX_END make (43_framer.md R116 to R120), as a function of the bytes of the
open chunk, and that over the commands of SEND it is Encode of the payload. -/

namespace Sys2Proof.Machine

/-- The bytes a command pushes while the bytes `a` of the open chunk are in (R118, R120): START before the first byte of
a chunk, the trailer after its last one. -/
def Cfg.txPushes (c : Cfg) (a : List Byte) : Instr → List Byte
  | .txByte b => (if a = [] then [c.start] else []) ++ c.stuff b ++
      (if a.length + 1 = c.fmax.toNat then c.trailerOf (c.codeOf (a ++ [b])) else [])
  | .txEnd => if a = [] then [] else c.trailerOf (c.codeOf a)
  | _ => []

/-- The bytes of the open chunk after a command: none after a frame closed. -/
def Cfg.txChunk (c : Cfg) (a : List Byte) : Instr → List Byte
  | .txByte b => if a.length + 1 = c.fmax.toNat then [] else a ++ [b]
  | .txEnd => []
  | _ => a

/-- All the bytes a list of commands pushes. -/
def Cfg.txStream (c : Cfg) (a : List Byte) : List Instr → List Byte
  | [] => []
  | i :: is => c.txPushes a i ++ c.txStream (c.txChunk a i) is

/-- The part of a frame that is already pushed while its chunk is open. -/
def Cfg.frameSoFar (c : Cfg) (a : List Byte) : List Byte := if a = [] then [] else [c.start] ++ c.stuffAll a

/-- A chunk always has fewer than F bytes while it is open (R36). -/
theorem Cfg.txChunk_length_lt {c : Cfg} {a : List Byte} (h : a.length < c.fmax.toNat) (i : Instr) :
    (c.txChunk a i).length < c.fmax.toNat := by
  cases i with
  | txByte b =>
    rw [Cfg.txChunk]
    split
    · exact Nat.zero_lt_of_lt h
    · rw [List.length_append, List.length_singleton]
      omega
  | txEnd => exact Nat.zero_lt_of_lt h
  | _ => exact h

/-- TX_POP pushes nothing and leaves the chunk, so stream and chunk are those of the other commands. -/
theorem Cfg.tx_filter (c : Cfg) (is : List Instr) : ∀ a : List Byte,
    c.txStream a (is.filter fun i => decide (i ≠ .txPop)) = c.txStream a is ∧
    (is.filter fun i => decide (i ≠ .txPop)).foldl c.txChunk a = is.foldl c.txChunk a := by
  induction is with
  | nil => exact fun _ => ⟨rfl, rfl⟩
  | cons i is ih =>
    intro a
    by_cases hi : i = .txPop
    · subst hi
      exact ih a
    · obtain ⟨hstream, hchunk⟩ := ih (c.txChunk a i)
      rw [List.filter_cons_of_pos (by simpa using hi)]
      exact ⟨congrArg (c.txPushes a i ++ ·) hstream, hchunk⟩

/-- No chunk is open after TX_END. -/
theorem Cfg.foldl_txChunk_txEnd (c : Cfg) (a : List Byte) (is : List Instr) :
    (is ++ [Instr.txEnd]).foldl c.txChunk a = [] := by
  rw [List.foldl_append]
  rfl

/-- One more byte completes the frame or goes on with it. -/
theorem Cfg.frameSoFar_append_txPushes (c : Cfg) (a : List Byte) (b : Byte) :
    c.frameSoFar a ++ c.txPushes a (.txByte b) =
      if a.length + 1 = c.fmax.toNat then c.frameBytes (a ++ [b]) else c.frameSoFar (a ++ [b]) := by
  have hopened : c.frameSoFar a ++ ((if a = [] then [c.start] else []) ++ c.stuff b) =
      [c.start] ++ c.stuffAll (a ++ [b]) := by
    by_cases ha : a = [] <;> simp [Cfg.frameSoFar, ha]
  rw [Cfg.txPushes, ← List.append_assoc, hopened]
  split
  · rfl
  · rw [List.append_nil, Cfg.frameSoFar, if_neg (by simp)]

/-- The payload's first chunk, filled to F bytes, is its first frame (R112, R116). -/
theorem Cfg.encodePayload_append {c : Cfg} {a : List Byte} (ha : a.length = c.fmax.toNat) (hpos : 1 ≤ a.length)
    (p : List Byte) : c.encodePayload (a ++ p) = c.frameBytes a ++ c.encodePayload p := by
  rw [Cfg.encodePayload, chunks_append_of_length (ha ▸ hpos) ha, List.flatMap_cons, Cfg.encodePayload]

/-- A payload of one chunk is one frame. -/
theorem Cfg.encodePayload_of_length_lt {c : Cfg} {a : List Byte} (ha : a ≠ []) (hlt : a.length < c.fmax.toNat) :
    c.encodePayload a = c.frameBytes a := by
  rw [Cfg.encodePayload, chunks_of_length_le ha hlt.le, List.flatMap_singleton]

/-- What SEND pushes completes what is already pushed of the open frame to Encode of all the bytes (R116, R122). -/
theorem Cfg.frameSoFar_append_txStream (c : Cfg) (p : List Byte) : ∀ a : List Byte, a.length < c.fmax.toNat →
    c.frameSoFar a ++ c.txStream a (p.map .txByte ++ [.txEnd]) = c.encodePayload (a ++ p) := by
  induction p with
  | nil =>
    intro a hlt
    by_cases ha : a = []
    · subst ha
      rfl
    · rw [List.append_nil, Cfg.encodePayload_of_length_lt ha hlt]
      simp [Cfg.frameSoFar, Cfg.txStream, Cfg.txPushes, ha, Cfg.frameBytes]
  | cons b p ih =>
    intro a hlt
    have hsplit : a ++ b :: p = (a ++ [b]) ++ p := by simp
    rw [List.map_cons, List.cons_append, Cfg.txStream, ← List.append_assoc, Cfg.frameSoFar_append_txPushes, hsplit,
      Cfg.txChunk]
    by_cases hfull : a.length + 1 = c.fmax.toNat
    · have hframe : (a ++ [b]).length = c.fmax.toNat := by simpa using hfull
      rw [if_pos hfull, if_pos hfull, Cfg.encodePayload_append hframe (by simp)]
      exact congrArg (c.frameBytes (a ++ [b]) ++ ·) (ih [] (Nat.zero_lt_of_lt hlt))
    · rw [if_neg hfull, if_neg hfull, ih (a ++ [b]) (by rw [List.length_append, List.length_singleton]; omega)]

/-- From no open frame, SEND pushes Encode of the payload (R122). -/
theorem Cfg.txStream_send {c : Cfg} (hF : 0 < c.fmax.toNat) (p : List Byte) :
    c.txStream [] (p.map .txByte ++ [.txEnd]) = c.encodePayload p :=
  c.frameSoFar_append_txStream p [] hF

end Sys2Proof.Machine
end

section
/-! Streaming (43_framer.md R122): while the framer holds a chunk, each command pushes the bytes of `Cfg.txPushes`, and
a run of commands moves the bytes of `Cfg.txStream` through TXQ. -/

namespace Sys2Proof.Machine

open Sys2Proof.Claims

/-- The framer's state over the bytes `a` of the open chunk; no frame is open when there are none (R36, R117). -/
structure State.HoldsChunk (s : State) (a : List Byte) : Prop where
  inf : s.txinf = !a.isEmpty
  cnt : s.txcnt = BitVec.ofNat 16 a.length
  crc : s.txcrc = a.foldl s.cfg.runningCrc 0
  par : s.txpar = parityBit a
  below : a.length < s.cfg.fmax.toNat

/-- The state after `out` is pushed and the bytes of the open chunk are `a`. -/
def State.sent (s : State) (out a : List Byte) : State :=
  (s.setTxq (s.txq ++ out)).setTx (!a.isEmpty) (BitVec.ofNat 16 a.length) (a.foldl s.cfg.runningCrc 0) (parityBit a)

/-- The commands that make a frame. -/
inductive Sends : Instr → Prop where
  | byte (b : Byte) : Sends (.txByte b)
  | close : Sends .txEnd

theorem State.Inv.holdsChunk_nil {s : State} (hinv : s.Inv) (hvalid : s.cfgValid = true) (hclosed : s.txinf = false) :
    s.HoldsChunk [] := by
  have hbelow := openCount_lt_fmax hinv hvalid
  obtain ⟨_, _, _, ⟨hidle, _, _⟩, _⟩ := hinv
  obtain ⟨hcnt, hcrc, hpar⟩ := hidle hclosed
  exact ⟨hclosed, hcnt, hcrc, hpar, Nat.zero_lt_of_lt hbelow⟩

section
variable {s : State} {a : List Byte} (h : s.HoldsChunk a)
include h

/-- Sending bytes that leave the open chunk as it is. -/
theorem State.HoldsChunk.sent_same (out : List Byte) : s.sent out a = s.setTxq (s.txq ++ out) := by
  rw [State.sent, ← h.inf, ← h.cnt, ← h.crc, ← h.par]
  rfl

theorem State.HoldsChunk.sent_nil : s.sent [] a = s := by
  rw [h.sent_same, List.append_nil]
  rfl

theorem State.HoldsChunk.sent {i : Instr} (out : List Byte) :
    (s.sent out (s.cfg.txChunk a i)).HoldsChunk (s.cfg.txChunk a i) :=
  ⟨rfl, rfl, rfl, rfl, Cfg.txChunk_length_lt h.below i⟩

theorem State.HoldsChunk.emit (r : Word) : (s.emit r).HoldsChunk a := ⟨h.inf, h.cnt, h.crc, h.par, h.below⟩

theorem State.HoldsChunk.setTxq (q : List Byte) : (s.setTxq q).HoldsChunk a := ⟨h.inf, h.cnt, h.crc, h.par, h.below⟩

theorem State.HoldsChunk.openBytes : openBytes s = if a = [] then [s.cfg.start] else [] := by
  rw [Claims.openBytes, h.inf]
  cases a <;> rfl

theorem State.HoldsChunk.openCount : openCount s = a.length := by
  have hlt : a.length < 2 ^ 16 := h.below.trans s.cfg.fmax.isLt
  rw [Claims.openCount, h.inf, h.cnt, BitVec.toNat_ofNat, Nat.mod_eq_of_lt hlt]
  cases a <;> rfl

theorem State.HoldsChunk.openCrc : openCrc s = a.foldl s.cfg.runningCrc 0 := by
  rw [Claims.openCrc, h.inf, h.crc]
  cases a <;> rfl

theorem State.HoldsChunk.openPar : openPar s = parityBit a := by
  rw [Claims.openPar, h.inf, h.par]
  cases a <;> rfl

/-- The running state after one more byte is that of the longer chunk (R118). -/
theorem State.HoldsChunk.nextCrc (b : Byte) :
    nextCrc s.cfg (Claims.openCrc s) b = (a ++ [b]).foldl s.cfg.runningCrc 0 := by
  rw [h.openCrc, ← Cfg.runningCrc_eq_nextCrc, List.foldl_append]
  rfl

theorem State.HoldsChunk.nextPar (b : Byte) : nextPar (Claims.openPar s) b = parityBit (a ++ [b]) := by
  rw [h.openPar, ← xor_oddOnes_eq_nextPar, parityBit_snoc]

theorem State.HoldsChunk.txByteOut (b : Byte) : txByteOut s b = s.cfg.txPushes a (.txByte b) := by
  rw [Claims.txByteOut, h.nextCrc, h.nextPar, h.openBytes, h.openCount, ← Cfg.stuff_eq_stuffed,
    ← Cfg.closeBytes_eq_closing, Cfg.closeBytes_foldl]
  rfl

/-- TX_BYTE and TX_END send the bytes of the stream and go on with its next chunk. -/
theorem State.HoldsChunk.exec_sends {i : Instr} (hi : Sends i) (hvalid : s.cfgValid = true) :
    exec i s = s.sendBytes (s.cfg.txPushes a i) (!(s.cfg.txChunk a i).isEmpty)
      (BitVec.ofNat 16 (s.cfg.txChunk a i).length) ((s.cfg.txChunk a i).foldl s.cfg.runningCrc 0)
      (parityBit (s.cfg.txChunk a i)) := by
  cases hi with
  | byte b =>
    rw [exec_txByte_of_valid hvalid (by rw [h.openCount]; exact h.below), h.txByteOut, h.nextCrc, h.nextPar,
      h.openCount, Cfg.txChunk]
    split
    · rfl
    · have hopen : (!(a ++ [b]).isEmpty) = true := by simp
      rw [hopen, List.length_append]
      rfl
  | close =>
    by_cases ha : a = []
    · subst ha
      calc exec .txEnd s = .next ((s.sent [] []).emit (respWord .ok 0 0)) := by
            rw [exec_txEnd_of_closed hvalid h.inf, h.sent_nil, respWord_ok_zero_zero]
        _ = _ := (State.sendBytes_of_fits (Nat.zero_le _)).symm
    · rw [exec_txEnd_of_open hvalid (by rw [h.inf]; simpa using ha), h.crc, h.par, ← Cfg.closeBytes_eq_closing,
        Cfg.closeBytes_foldl, Cfg.txPushes, if_neg ha]
      rfl

/-- Where there is room, the command responds OK. -/
theorem State.HoldsChunk.exec_sends_of_fits {i : Instr} (hi : Sends i) (hvalid : s.cfgValid = true)
    (hfits : (s.cfg.txPushes a i).length ≤ s.txFree) : ∃ r, responseOk r = true ∧
      exec i s = .next ((s.sent (s.cfg.txPushes a i) (s.cfg.txChunk a i)).emit r) :=
  ⟨_, (responseOk_respWord ..).2 rfl, (h.exec_sends hi hvalid).trans (State.sendBytes_of_fits hfits)⟩

/-- And it responds OK only there. -/
theorem State.HoldsChunk.eq_sent_of_ok {i : Instr} (hi : Sends i) (hvalid : s.cfgValid = true) {u : State} {r : Word}
    (hexec : exec i s = .next u) (hresp : u.resp.getLast? = some r) (hok : responseOk r = true) :
    u = (s.sent (s.cfg.txPushes a i) (s.cfg.txChunk a i)).emit r := by
  by_cases hfits : (s.cfg.txPushes a i).length ≤ s.txFree
  · obtain ⟨r', _, hsent⟩ := h.exec_sends_of_fits hi hvalid hfits
    obtain rfl : _ = u := Host.Outcome.next.inj (hsent.symm.trans hexec)
    obtain rfl : r' = r := by simpa using hresp
    rfl
  · rw [h.exec_sends hi hvalid, State.sendBytes_of_full (Nat.lt_of_not_le hfits)] at hexec
    obtain rfl : _ = u := Host.Outcome.next.inj hexec
    obtain rfl : respWord .efull 0 0 = r := by simpa using hresp
    exact absurd hok (by decide)

end

/-- The byte a TX_POP returns stands in V[7:0] (R76). -/
theorem respWord_low_byte (st : Status) (x b : Byte) : (respWord st x (b.setWidth 16)).extractLsb' 0 8 = b := by
  have hb := b.isLt
  apply BitVec.eq_of_toNat_eq
  rw [BitVec.extractLsb'_toNat, respWord_toNat, byte_toNat_zext, Nat.shiftRight_zero]
  omega

/-- A TX_POP that responds OK took the oldest byte, and its response holds it (R121). -/
theorem exec_txPop_of_ok {s u : State} {r : Word} (hexec : exec .txPop s = .next u)
    (hresp : u.resp.getLast? = some r) (hok : responseOk r = true) :
    ∃ rest, s.txq = r.extractLsb' 0 8 :: rest ∧ u = (s.setTxq rest).emit r := by
  cases hq : s.txq with
  | nil =>
    rw [exec_txPop_nil hq] at hexec
    obtain rfl : _ = u := Host.Outcome.next.inj hexec
    obtain rfl : respWord .eempty 0 0 = r := by simpa using hresp
    exact absurd hok (by decide)
  | cons b rest =>
    rw [exec_txPop_cons hq] at hexec
    obtain rfl : _ = u := Host.Outcome.next.inj hexec
    obtain rfl : respWord .ok 0 (b.setWidth 16) = r := by simpa using hresp
    exact ⟨rest, by rw [respWord_low_byte], rfl⟩

/-- With room for their whole stream, commands that make frames all respond OK. -/
theorem okRun_sends {is : List Instr} : ∀ {s : State} {a : List Byte}, (∀ i ∈ is, Sends i) → s.HoldsChunk a →
    s.cfgValid = true → (s.cfg.txStream a is).length ≤ s.txFree →
    ∃ rs, okRun is s = some (rs,
      { s.sent (s.cfg.txStream a is) (is.foldl s.cfg.txChunk a) with resp := s.resp ++ rs }) := by
  induction is with
  | nil =>
    intro s a _ h _ _
    exact ⟨[], by simp [okRun, Cfg.txStream, h.sent_nil]⟩
  | cons i is ih =>
    intro s a hsends h hvalid hroom
    obtain ⟨hi, hrest⟩ := List.forall_mem_cons.1 hsends
    rw [Cfg.txStream, List.length_append] at hroom
    obtain ⟨r, hok, hexec⟩ := h.exec_sends_of_fits hi hvalid (by omega)
    have hroom' : (s.cfg.txStream (s.cfg.txChunk a i) is).length ≤
        ((s.sent (s.cfg.txPushes a i) (s.cfg.txChunk a i)).emit r).txFree := by
      simp only [State.txFree, State.sent, State.emit_params, State.emit_txq, State.setTx_params, State.setTx_txq,
        State.setTxq_params, State.setTxq_txq, List.length_append] at hroom ⊢
      omega
    obtain ⟨rs, hrun⟩ := ih hrest ((h.sent _).emit r) hvalid hroom'
    refine ⟨r :: rs, ?_⟩
    rw [okRun_cons_of_ok hexec hok, hrun]
    simp [State.sent, State.emit, State.setTx, State.setTxq, Cfg.txStream]

/-- Commands that make frames, with TX_POP interleaved anywhere, move their stream through TXQ. -/
theorem poppedBytes_append_txq {is : List Instr} : ∀ {s t : State} {a : List Byte} {rs : List Word},
    (∀ i ∈ is, i = .txPop ∨ Sends i) → s.HoldsChunk a → s.cfgValid = true → okRun is s = some (rs, t) →
    poppedBytes is rs ++ t.txq = s.txq ++ s.cfg.txStream a is ∧ t.HoldsChunk (is.foldl s.cfg.txChunk a) := by
  induction is with
  | nil =>
    intro s t a rs _ h _ hrun
    cases hrun
    exact ⟨by simp [poppedBytes, Cfg.txStream], h⟩
  | cons i is ih =>
    intro s t a rs hsends h hvalid hrun
    obtain ⟨hi, hrest⟩ := List.forall_mem_cons.1 hsends
    obtain ⟨u, r, rs, hexec, hresp, hok, hrun, rfl⟩ := okRun_cons_inv hrun
    rcases hi with rfl | hi
    · obtain ⟨q, hq, rfl⟩ := exec_txPop_of_ok hexec hresp hok
      obtain ⟨hstream, hchunk⟩ := ih hrest ((h.setTxq q).emit r) hvalid hrun
      refine ⟨?_, hchunk⟩
      rw [hq]
      exact congrArg (r.extractLsb' 0 8 :: ·) hstream
    · obtain rfl := h.eq_sent_of_ok hi hvalid hexec hresp hok
      obtain ⟨hstream, hchunk⟩ := ih hrest ((h.sent _).emit r) hvalid hrun
      refine ⟨?_, hchunk⟩
      have hpopped : poppedBytes (i :: is) (r :: rs) = poppedBytes is rs := by cases hi <;> rfl
      rw [hpopped, hstream]
      exact List.append_assoc ..

theorem sends_of_mem_send {p : List Byte} {i : Instr} (hi : i ∈ p.map Instr.txByte ++ [.txEnd]) : Sends i := by
  rcases List.mem_append.1 hi with hbyte | hend
  · obtain ⟨b, _, rfl⟩ := List.mem_map.1 hbyte
    exact .byte b
  · obtain rfl := List.mem_singleton.1 hend
    exact .close

/-- Settles O40: the stream of the commands of SEND is Encode of the payload, with TX_POP or without. -/
theorem streamingEqualsEncode : Obligations.StreamingEqualsEncode := by
  intro s t p is rs hinv hvalid hclosed hfilter hrun
  have h := hinv.holdsChunk_nil hvalid hclosed
  have hsends : ∀ i ∈ is, i = .txPop ∨ Sends i := fun i hi =>
    or_iff_not_imp_left.2 fun hne => sends_of_mem_send (hfilter ▸ List.mem_filter.2 ⟨hi, by simpa using hne⟩)
  obtain ⟨hstream, hchunk⟩ := poppedBytes_append_txq hsends h hvalid hrun
  obtain ⟨hfilterStream, hfilterChunk⟩ := s.cfg.tx_filter is []
  rw [← hfilterStream, hfilter, Cfg.txStream_send h.below] at hstream
  rw [← hfilterChunk, hfilter, Cfg.foldl_txChunk_txEnd] at hchunk
  exact ⟨hstream, hchunk.inf⟩

/-- Settles O41: the room for Encode of the payload is that for the stream of SEND. -/
theorem sendFillsTheQueueWithEncode : Obligations.SendFillsTheQueueWithEncode := by
  intro s p hinv hvalid hclosed hroom
  have h := hinv.holdsChunk_nil hvalid hclosed
  have hstream := Cfg.txStream_send h.below p
  obtain ⟨rs, hrun⟩ := okRun_sends (is := p.map .txByte ++ [.txEnd]) (fun _ => sends_of_mem_send) h hvalid
    (by rw [hstream, State.txFree]; omega)
  refine ⟨rs, ?_⟩
  rw [hrun, hstream, Cfg.foldl_txChunk_txEnd, h.sent_same]
  rfl

end Sys2Proof.Machine
end

section
/-! Who changes the elements other than the two queues (10_state.md R33, R35, R40, R41, 40_control.md R82, R87,
43_framer.md R123), read off the effects of a command. -/

namespace Sys2Proof.Machine

section
variable {i : Instr} {s u : State} (effect : Effect s i u)
include effect

theorem Effect.framer_eq (other : i.op ∉ [.txByte, .txEnd, .cfgCommit, .softReset]) :
    u.txinf = s.txinf ∧ u.txcnt = s.txcnt ∧ u.txcrc = s.txcrc ∧ u.txpar = s.txpar := by
  cases effect with
  | frameExtended | accepted | rejected | reset => simp [Instr.op] at other
  | frameClosed closes => rcases closes with hop | hop <;> simp [hop] at other
  | _ => exact ⟨rfl, rfl, rfl, rfl⟩

theorem Effect.counters_eq (other : i.op ∉ [.rxExtract, .cfgCommit, .softReset]) :
    u.resync = s.resync ∧ u.damaged = s.damaged := by
  cases effect with
  | attempted | accepted | rejected | reset => simp [Instr.op] at other
  | _ => exact ⟨rfl, rfl⟩

theorem Effect.outcome_eq (other : i.op ∉ [.rxExtract, .rxFlush, .cfgCommit, .softReset]) :
    u.rxpay = s.rxpay ∧ u.lastout = s.lastout ∧ u.dstate = s.dstate := by
  cases effect with
  | attempted | flushed | accepted | rejected | reset => simp [Instr.op] at other
  | _ => exact ⟨rfl, rfl, rfl⟩

theorem Effect.engine_eq (other : i.op ∉ [.engClr, .engByte, .cfgCommit, .softReset]) :
    u.engcrc = s.engcrc ∧ u.engpar = s.engpar := by
  cases effect with
  | engCleared | engAbsorbed | accepted | rejected | reset => simp [Instr.op] at other
  | _ => exact ⟨rfl, rfl⟩

theorem Effect.cfg_eq (other : i.op ∉ [.cfgWr, .softReset]) : u.cfg = s.cfg := by
  cases effect with
  | configured | reset => simp [Instr.op] at other
  | _ => rfl

theorem Effect.cfgValid_eq (other : i.op ∉ [.cfgWr, .cfgCommit, .softReset]) : u.cfgValid = s.cfgValid := by
  cases effect with
  | configured | accepted | rejected | reset => simp [Instr.op] at other
  | _ => rfl

theorem Effect.cfgErr_eq (other : i.op ∉ [.cfgCommit, .softReset]) : u.cfgErr = s.cfgErr := by
  cases effect with
  | accepted | rejected | reset => simp [Instr.op] at other
  | _ => rfl

/-- No effect reaches the parameters or the pending inputs (log entries 1 and 2). -/
theorem Effect.params_cmd_eq : u.params = s.params ∧ u.cmd = s.cmd := by
  cases effect <;> exact ⟨rfl, rfl⟩

end

/-- Settles O59, from the effect of the command on each group; the response changes none of them. -/
theorem onlyTheirOwnCommandsChangeTheState : Obligations.OnlyTheirOwnCommandsChangeTheState := by
  intro i s t hexec
  obtain ⟨u, r, effect, rfl⟩ := exec_next_effect hexec
  exact ⟨effect.framer_eq, effect.counters_eq, effect.outcome_eq, effect.engine_eq, effect.cfg_eq,
    effect.cfgValid_eq, effect.cfgErr_eq, effect.params_cmd_eq⟩

end Sys2Proof.Machine
end

section
/-! The transmit side, the receive side and the engine share only the configuration (42_error_engine.md R107,
43_framer.md R123): a command commutes with every change of the state that spares the elements it uses. -/

namespace Sys2Proof.Machine

open Sys2Proof.Claims

/-- A change of the state that spares the configuration, its verdict, the parameters and the port of the responses. -/
structure SparesConfig (f : State → State) : Prop where
  cfg (s : State) : (f s).cfg = s.cfg
  cfgValid (s : State) : (f s).cfgValid = s.cfgValid
  params (s : State) : (f s).params = s.params
  emit (s : State) (r : Word) : (f s).emit r = f (s.emit r)

/-- One that spares the engine too (R35). -/
structure SparesEngine (f : State → State) : Prop extends SparesConfig f where
  engcrc (s : State) : (f s).engcrc = s.engcrc
  engpar (s : State) : (f s).engpar = s.engpar
  setEng (s : State) (crc : Byte) (par : Bool) : (f s).setEng crc par = f (s.setEng crc par)

/-- One that spares the framer and TXQ too (R36, R37). -/
structure SparesTransmit (f : State → State) : Prop extends SparesConfig f where
  txinf (s : State) : (f s).txinf = s.txinf
  txcnt (s : State) : (f s).txcnt = s.txcnt
  txcrc (s : State) : (f s).txcrc = s.txcrc
  txpar (s : State) : (f s).txpar = s.txpar
  txq (s : State) : (f s).txq = s.txq
  setTx (s : State) (inf : Bool) (cnt : Half) (crc : Byte) (par : Bool) :
    (f s).setTx inf cnt crc par = f (s.setTx inf cnt crc par)
  setTxq (s : State) (q : List Byte) : (f s).setTxq q = f (s.setTxq q)

/-- One that spares RXBUF, the decoder, its last outcome and the counters too (R33, R38 to R41). -/
structure SparesReceive (f : State → State) : Prop extends SparesConfig f where
  rxbuf (s : State) : (f s).rxbuf = s.rxbuf
  dstate (s : State) : (f s).dstate = s.dstate
  rxpay (s : State) : (f s).rxpay = s.rxpay
  resync (s : State) : (f s).resync = s.resync
  damaged (s : State) : (f s).damaged = s.damaged
  setRx (s : State) (ds : DState) (buf : List Byte) : (f s).setRx ds buf = f (s.setRx ds buf)
  setOutcome (s : State) (pay : List Byte) (out : BitVec 2) : (f s).setOutcome pay out = f (s.setOutcome pay out)
  setCounters (s : State) (m n : Half) : (f s).setCounters m n = f (s.setCounters m n)

/-- The command does the same after the change as before it, whatever the state (R107, R123). -/
def CommutesWith (f : State → State) (i : Instr) : Prop := ∀ s : State, exec i (f s) = mapNext f (exec i s)

section
variable {f : State → State} (h : SparesConfig f) (s : State)
include h

theorem SparesConfig.respond (st : Status) (x : Byte) (v : Half) :
    (f s).respond st x v = mapNext f (s.respond st x v) :=
  congrArg Host.Outcome.next (h.emit s _)

theorem SparesConfig.raise (st : Status) : (f s).raise st = mapNext f (s.raise st) := h.respond s st 0 0

theorem SparesConfig.needValid {r r' : Result} (hr : r' = mapNext f r) :
    (f s).needValid r' = mapNext f (s.needValid r) := by
  unfold State.needValid
  rw [h.cfgValid, hr, h.raise, apply_ite (mapNext f)]

theorem SparesConfig.commutesWith_stuff (b : Byte) : CommutesWith f (.stuff b) := by
  refine fun s => h.needValid s ?_
  rw [h.cfg]
  unfold stuffResponse
  split <;> exact h.respond ..

end

section
variable {f : State → State} (h : SparesEngine f)
include h

theorem SparesEngine.commutesWith {i : Instr} (hop : i.op ∈ [.engClr, .engByte, .engCompute, .engVerify]) :
    CommutesWith f i := by
  intro s
  cases i with
  | engClr =>
    refine h.needValid s ?_
    rw [h.setEng]
    exact h.respond ..
  | engByte b =>
    refine h.needValid s ?_
    rw [h.cfg, h.engcrc, h.engpar, h.setEng]
    exact h.respond ..
  | engCompute =>
    refine h.needValid s ?_
    rw [h.cfg, h.engcrc, h.engpar]
    exact h.respond ..
  | engVerify b =>
    refine h.needValid s ?_
    rw [h.cfg, h.engcrc, h.engpar]
    exact h.respond ..
  | _ => simp [Instr.op] at hop

end

section
variable {f : State → State} (h : SparesTransmit f)
include h

theorem SparesTransmit.sendBytes (s : State) (out : List Byte) (inf : Bool) (cnt : Half) (crc : Byte) (par : Bool) :
    (f s).sendBytes out inf cnt crc par = mapNext f (s.sendBytes out inf cnt crc par) := by
  have hfree : (f s).txFree = s.txFree := by rw [State.txFree, State.txFree, h.params, h.txq]
  unfold State.sendBytes State.pushTxq
  rw [hfree, h.txq, h.setTxq, h.setTx, h.raise, h.respond, apply_ite (mapNext f)]

theorem SparesTransmit.commutesWith {i : Instr} (hop : i.op ∈ [.txByte, .txEnd, .txPop]) : CommutesWith f i := by
  intro s
  cases i with
  | txByte b =>
    refine h.needValid s ?_
    simp only [h.cfg, h.txinf, h.txcnt, h.txcrc, h.txpar, h.sendBytes, apply_ite (mapNext f)]
  | txEnd =>
    refine h.needValid s ?_
    rw [h.cfg, h.txinf, h.txcrc, h.txpar, h.sendBytes, h.respond, apply_ite (mapNext f)]
  | txPop =>
    cases hq : s.txq with
    | nil =>
      rw [exec_txPop_nil hq, exec_txPop_nil ((h.txq s).trans hq)]
      exact h.raise s .eempty
    | cons b rest =>
      rw [exec_txPop_cons hq, exec_txPop_cons ((h.txq s).trans hq), h.setTxq]
      exact h.respond (s.setTxq rest) .ok 0 _
  | _ => simp [Instr.op] at hop

end

section
variable {f : State → State} (h : SparesReceive f)
include h

theorem SparesReceive.afterAttempt (s : State) (a : Attempt) : (f s).afterAttempt a = f (s.afterAttempt a) := by
  unfold State.afterAttempt
  rw [h.setRx, h.setOutcome, h.resync, h.damaged, h.setCounters]

theorem SparesReceive.commutesWith {i : Instr} (hop : i.op ∈ [.rxFeed, .rxExtract, .rxPrd, .rxFlush]) :
    CommutesWith f i := by
  intro s
  cases i with
  | rxFeed b =>
    refine h.needValid s ?_
    rw [h.rxbuf, h.params, h.dstate, h.setRx, h.raise, h.respond, apply_ite (mapNext f)]
  | rxExtract =>
    refine h.needValid s ?_
    simp only [h.cfg, h.dstate, h.rxbuf, h.afterAttempt]
    exact h.respond ..
  | rxPrd d =>
    simp only [exec, execRxPrd, h.rxpay]
    split
    · exact h.raise ..
    · exact h.respond ..
  | rxFlush =>
    simp only [exec, execRxFlush, h.setRx, h.setOutcome]
    exact h.respond ..
  | _ => simp [Instr.op] at hop

end

section
variable (inf : Bool) (cnt : Half) (crc : Byte) (par : Bool) (q : List Byte)

theorem withTx_sparesConfig : SparesConfig (withTx · inf cnt crc par q) :=
  ⟨fun _ => rfl, fun _ => rfl, fun _ => rfl, fun _ _ => rfl⟩

theorem withTx_sparesEngine : SparesEngine (withTx · inf cnt crc par q) :=
  ⟨withTx_sparesConfig .., fun _ => rfl, fun _ => rfl, fun _ _ _ => rfl⟩

theorem withTx_sparesReceive : SparesReceive (withTx · inf cnt crc par q) :=
  ⟨withTx_sparesConfig .., fun _ => rfl, fun _ => rfl, fun _ => rfl, fun _ => rfl, fun _ => rfl, fun _ _ _ => rfl,
    fun _ _ _ => rfl, fun _ _ _ => rfl⟩

end

section
variable (buf : List Byte) (ds : DState) (pay : List Byte) (out : BitVec 2) (m n : Half)

theorem withRx_sparesConfig : SparesConfig (withRx · buf ds pay out m n) :=
  ⟨fun _ => rfl, fun _ => rfl, fun _ => rfl, fun _ _ => rfl⟩

theorem withRx_sparesEngine : SparesEngine (withRx · buf ds pay out m n) :=
  ⟨withRx_sparesConfig .., fun _ => rfl, fun _ => rfl, fun _ _ _ => rfl⟩

theorem withRx_sparesTransmit : SparesTransmit (withRx · buf ds pay out m n) :=
  ⟨withRx_sparesConfig .., fun _ => rfl, fun _ => rfl, fun _ => rfl, fun _ => rfl, fun _ => rfl,
    fun _ _ _ _ _ => rfl, fun _ _ => rfl⟩

end

section
variable (crc : Byte) (par : Bool)

theorem withEng_sparesConfig : SparesConfig (withEng · crc par) :=
  ⟨fun _ => rfl, fun _ => rfl, fun _ => rfl, fun _ _ => rfl⟩

theorem withEng_sparesTransmit : SparesTransmit (withEng · crc par) :=
  ⟨withEng_sparesConfig .., fun _ => rfl, fun _ => rfl, fun _ => rfl, fun _ => rfl, fun _ => rfl,
    fun _ _ _ _ _ => rfl, fun _ _ => rfl⟩

theorem withEng_sparesReceive : SparesReceive (withEng · crc par) :=
  ⟨withEng_sparesConfig .., fun _ => rfl, fun _ => rfl, fun _ => rfl, fun _ => rfl, fun _ => rfl, fun _ _ _ => rfl,
    fun _ _ _ => rfl, fun _ _ _ => rfl⟩

end

/-- STUFF and the commands of two sides, from each on its own. -/
theorem SparesConfig.commutesWith_of_mem {f : State → State} (h : SparesConfig f) {i : Instr} {l l' : List Op}
    (hleft : i.op ∈ l → CommutesWith f i) (hright : i.op ∈ l' → CommutesWith f i)
    (hop : i.op ∈ .stuff :: (l ++ l')) : CommutesWith f i := by
  rcases List.mem_cons.1 hop with hstuff | hside
  · cases i with
    | stuff b => exact h.commutesWith_stuff b
    | _ => simp [Instr.op] at hstuff
  · exact (List.mem_append.1 hside).elim hleft hright

/-- Settles O60: each kind of command commutes with a change that spares its side, and another transmit side spares the
engine and the receive side, and so on around. -/
theorem transmitReceiveAndEngineAreIndependent : Obligations.TransmitReceiveAndEngineAreIndependent :=
  ⟨fun _ s inf cnt crc par q hop => (withTx_sparesConfig inf cnt crc par q).commutesWith_of_mem
      (withTx_sparesEngine ..).commutesWith (withTx_sparesReceive ..).commutesWith hop s,
    fun _ s buf ds pay out m n hop => (withRx_sparesConfig buf ds pay out m n).commutesWith_of_mem
      (withRx_sparesEngine ..).commutesWith (withRx_sparesTransmit ..).commutesWith hop s,
    fun _ s crc par hop => (withEng_sparesConfig crc par).commutesWith_of_mem
      (withEng_sparesTransmit ..).commutesWith (withEng_sparesReceive ..).commutesWith hop s⟩

end Sys2Proof.Machine
end

section
/-! The bytes the loop of 44_deframer.md R125 reads as data (R127), as a relation that follows the loop, and what the
loop does over them (R128). -/

namespace Sys2Proof.Machine

open Sys2Proof.Claims

/-- The buffer holds only data, which accumulates as the second list: ESC with the byte it makes literal, or a byte
that is no delimiter (R127). -/
inductive ReadsAs (c : Cfg) : List Byte → List Byte → Prop where
  | nil : ReadsAs c [] []
  | escaped {d p : List Byte} (x : Byte) (rest : ReadsAs c d p) : ReadsAs c (c.esc :: x :: d) (x :: p)
  | plain {d p : List Byte} {b : Byte} (hesc : b ≠ c.esc) (hstart : b ≠ c.start) (hstop : b ≠ c.stop)
      (rest : ReadsAs c d p) : ReadsAs c (b :: d) (b :: p)

theorem readAsData_escaped (c : Cfg) (x : Byte) (d : List Byte) :
    readAsData c (c.esc :: x :: d) = (readAsData c d).map (x :: ·) := by
  rw [readAsData, if_pos rfl]

theorem readAsData_plain {c : Cfg} {b : Byte} (hesc : b ≠ c.esc) (hstart : b ≠ c.start) (hstop : b ≠ c.stop)
    (d : List Byte) : readAsData c (b :: d) = (readAsData c d).map (b :: ·) := by
  cases d <;> simp [readAsData, hesc, hstart, hstop]

theorem ReadsAs.readAsData_eq {c : Cfg} {d p : List Byte} (h : ReadsAs c d p) : readAsData c d = some p := by
  induction h with
  | nil => rfl
  | escaped x _ ih => rw [readAsData_escaped, ih, Option.map_some]
  | plain hesc hstart hstop _ ih => rw [readAsData_plain hesc hstart hstop, ih, Option.map_some]

/-- The relation is the statements' function `readAsData`. -/
theorem readsAs_iff {c : Cfg} {d p : List Byte} : ReadsAs c d p ↔ readAsData c d = some p := by
  refine ⟨ReadsAs.readAsData_eq, ?_⟩
  induction d using readAsData.induct c generalizing p with
  | case1 => intro h; cases h; exact .nil
  | case2 => intro h; simp [readAsData] at h
  | case3 x d ih =>
    intro h
    obtain ⟨q, hq, rfl⟩ : ∃ q, readAsData c d = some q ∧ x :: q = p := by simpa [readAsData_escaped] using h
    exact .escaped x (ih hq)
  | case4 b d hesc hdelim => intro h; cases d <;> simp [readAsData, hesc, hdelim] at h
  | case5 b d hesc hdelim ih =>
    intro h
    obtain ⟨hstart, hstop⟩ := not_or.1 hdelim
    obtain ⟨q, hq, rfl⟩ : ∃ q, readAsData c d = some q ∧ b :: q = p := by
      simpa [readAsData_plain hesc hstart hstop] using h
    exact .plain hesc hstart hstop (ih hq)

theorem ReadsAs.readAsData_ne_none {c : Cfg} {d p : List Byte} (h : ReadsAs c d p) : readAsData c d ≠ none := by
  rw [h.readAsData_eq]
  nofun

theorem ReadsAs.append {c : Cfg} {d p e q : List Byte} (h : ReadsAs c d p) (h' : ReadsAs c e q) :
    ReadsAs c (d ++ e) (p ++ q) := by
  induction h with
  | nil => exact h'
  | escaped x _ ih => exact .escaped x ih
  | plain hesc hstart hstop _ ih => exact .plain hesc hstart hstop ih

theorem ReadsAs.length_le {c : Cfg} {d p : List Byte} (h : ReadsAs c d p) : p.length ≤ d.length := by
  induction h with
  | nil => exact le_rfl
  | escaped x _ ih => exact Nat.succ_le_succ (Nat.le_succ_of_le ih)
  | plain _ _ _ _ ih => exact Nat.succ_le_succ ih

/-- ESC makes any byte data (R127). -/
theorem readsAs_escaped (c : Cfg) (x : Byte) : ReadsAs c [c.esc, x] [x] := .escaped x .nil

/-- A byte that is no delimiter is data as it stands. -/
theorem readsAs_plain {c : Cfg} {b : Byte} (h : ¬ c.isDelimiter b = true) : ReadsAs c [b] [b] := by
  obtain ⟨hstart, hstop, hesc⟩ : b ≠ c.start ∧ b ≠ c.stop ∧ b ≠ c.esc := by simpa [Cfg.isDelimiter_iff] using h
  exact .plain hesc hstart hstop .nil

/-- The stuffed form of a byte is data (R95). -/
theorem readsAs_stuff (c : Cfg) (b : Byte) : ReadsAs c (c.stuff b) [b] := by
  unfold Cfg.stuff
  split
  next => exact readsAs_escaped c b
  next hb => exact readsAs_plain (mt Cfg.isReserved_of_isDelimiter hb)

theorem readsAs_stuffAll (c : Cfg) (p : List Byte) : ReadsAs c (c.stuffAll p) p := by
  induction p with
  | nil => exact .nil
  | cons b p ih =>
    rw [Cfg.stuffAll_cons]
    exact (readsAs_stuff c b).append ih

/-- Before STOP the code bytes are data: a CRC code that is a delimiter is escaped, and no valid marker is one
(R86, R113). -/
theorem readsAs_codeBytes {c : Cfg} (hvalid : c.Valid) (hpos : c.codePos = .beforeStop) (p : List Byte) :
    ReadsAs c (c.codeBytes (c.codeOf p)) [c.codeOf p] := by
  unfold Cfg.codeBytes
  split
  next => exact readsAs_escaped c _
  next hplain =>
    refine readsAs_plain ?_
    cases hs : c.scheme with
    | crc => exact fun hdelim => hplain ⟨hpos, hs, hdelim⟩
    | parity =>
      obtain ⟨_, heven, hodd⟩ := Cfg.markers_of_valid hvalid hs
      simp only [Cfg.codeOf, hs, Cfg.parityCode, Cfg.marker]
      split
      · exact hodd
      · exact heven

/-- The loop accumulates data and goes on behind it (R127). -/
theorem ReadsAs.scanAcc_append {c : Cfg} {d p : List Byte} (h : ReadsAs c d p) (entry tail : List Byte) (n : Nat) :
    ∀ acc : List Byte, scanAcc c acc entry n (d ++ tail) = scanAcc c (acc ++ p) entry n tail := by
  induction h with
  | nil => intro acc; rw [List.nil_append, List.append_nil]
  | escaped x _ ih =>
    intro acc
    rw [List.cons_append, List.cons_append, scanAcc_escaped, ih, List.append_assoc, List.singleton_append]
  | plain hesc hstart hstop _ ih =>
    intro acc
    rw [List.cons_append, scanAcc_data hesc hstart hstop, ih, List.append_assoc, List.singleton_append]

/-- Settles O47: the loop accumulates the abandoned bytes, and START drops them. -/
theorem freshStartResynchronises : Obligations.FreshStartResynchronises := by
  intro c hvalid
  obtain ⟨_, hne, _⟩ := Cfg.delimiters_of_valid hvalid
  refine ⟨fun abandoned acc rest hread => ?_, fun p => ⟨(readsAs_stuffAll c p).readAsData_eq, fun hpos => ?_⟩⟩
  · calc scan c .acc (abandoned ++ c.start :: rest)
        = scanAcc c acc (abandoned ++ c.start :: rest) 0 (c.start :: rest) :=
          (readsAs_iff.2 hread).scanAcc_append _ _ 0 []
      _ = scanAcc c [] rest (0 + 1) rest := scanAcc_start hne ..
      _ = (scanAcc c [] rest 0 rest).plus 1 := scanAcc_plus ..
  · exact ((readsAs_stuffAll c p).append (readsAs_codeBytes hvalid hpos p)).readAsData_eq

end Sys2Proof.Machine
end

section
/-! How an attempt ends (44_deframer.md R126, R127, R129 to R131): in SEEK without a START, in ACC at the end of the
buffer or at an unescaped STOP. -/

namespace Sys2Proof.Machine

open Sys2Proof.Claims

/-- Settles O46: the attempt with a START behind the garbage, and with nothing behind it. -/
theorem seekDiscardsUpToTheFirstStart : Obligations.SeekDiscardsUpToTheFirstStart := by
  refine fun c g rest hg => ⟨scan_seek_at_start hg rest, ?_⟩
  calc scan c .seek g = scan c .seek [] := by simpa using scan_seek_of_noStart hg []
    _ = ⟨.incomplete, [], .seek, [], 0⟩ := scan_seek_nil c

/-- The verdict on a closed frame: its code byte is the code of its payload, or not (R131). -/
theorem verdict_eq (c : Cfg) (pay : List Byte) (code : Byte) (rest : List Byte) (n : Nat) :
    verdict c pay code rest n =
      if code = c.codeOf pay then ⟨.frame, pay, .seek, rest, n⟩ else ⟨.damaged, [], .seek, rest, n⟩ := by
  simp only [verdict, Cfg.verify, beq_iff_eq]

section
variable {c : Cfg}

/-- Before-stop, STOP closes the frame and the last byte is the code (R129). -/
theorem closeFrame_beforeStop (hpos : c.codePos = .beforeStop) (pay entry rest : List Byte) (code : Byte) (n : Nat) :
    closeFrame c (pay ++ [code]) entry n rest = verdict c pay code rest n := by
  simp only [closeFrame, hpos, List.getLast?_concat, List.dropLast_concat]

/-- There is no code before STOP (R129). -/
theorem closeFrame_beforeStop_nil (hpos : c.codePos = .beforeStop) (entry rest : List Byte) (n : Nat) :
    closeFrame c [] entry n rest = ⟨.damaged, [], .seek, rest, n⟩ := by
  simp only [closeFrame, hpos, List.getLast?_nil]

/-- After-stop, the byte behind STOP is the code (R130). -/
theorem closeFrame_afterStop (hpos : c.codePos = .afterStop) (acc entry rest : List Byte) (code : Byte) (n : Nat) :
    closeFrame c acc entry n (code :: rest) = verdict c acc code rest n := by
  simp only [closeFrame, hpos]

/-- The code behind STOP has not arrived (R130). -/
theorem closeFrame_afterStop_nil (hpos : c.codePos = .afterStop) (acc entry : List Byte) (n : Nat) :
    closeFrame c acc entry n [] = ⟨.incomplete, [], .acc, entry, n⟩ := by
  simp only [closeFrame, hpos]

end

section
variable {c : Cfg} {d p : List Byte} (h : ReadsAs c d p)
include h

/-- The buffer ends in the frame's data (R127). -/
theorem ReadsAs.scan_end : scan c .acc d = ⟨.incomplete, [], .acc, d, 0⟩ := by
  simpa using h.scanAcc_append d [] 0 []

/-- The buffer ends behind an ESC (R127). -/
theorem ReadsAs.scan_dangling : scan c .acc (d ++ [c.esc]) = ⟨.incomplete, [], .acc, d ++ [c.esc], 0⟩ := by
  rw [scan_acc, h.scanAcc_append, scanAcc_dangling]

/-- STOP behind the frame's data (R129, R130). -/
theorem ReadsAs.scan_stop (hvalid : c.Valid) (rest : List Byte) :
    scan c .acc (d ++ c.stop :: rest) = closeFrame c p (d ++ c.stop :: rest) 0 rest := by
  obtain ⟨hstart, _, hesc⟩ := Cfg.delimiters_of_valid hvalid
  rw [scan_acc, h.scanAcc_append, scanAcc_stop hesc hstart.symm, List.nil_append]

end

/-- Data whose last byte is the code, closed by STOP: the frame is verified, however the code was written (R129,
R131). -/
theorem ReadsAs.scan_beforeStop {c : Cfg} {d p : List Byte} {code : Byte} (h : ReadsAs c d (p ++ [code]))
    (hvalid : c.Valid) (hpos : c.codePos = .beforeStop) (rest : List Byte) :
    scan c .acc (d ++ c.stop :: rest) =
      if code = c.codeOf p then ⟨.frame, p, .seek, rest, 0⟩ else ⟨.damaged, [], .seek, rest, 0⟩ := by
  rw [h.scan_stop hvalid, closeFrame_beforeStop hpos, verdict_eq]

/-- Data closed by STOP and a code byte behind it (R130, R131). -/
theorem ReadsAs.scan_afterStop {c : Cfg} {d p : List Byte} (h : ReadsAs c d p) (hvalid : c.Valid)
    (hpos : c.codePos = .afterStop) (code : Byte) (rest : List Byte) :
    scan c .acc (d ++ c.stop :: code :: rest) =
      if code = c.codeOf p then ⟨.frame, p, .seek, rest, 0⟩ else ⟨.damaged, [], .seek, rest, 0⟩ := by
  rw [h.scan_stop hvalid, closeFrame_afterStop hpos, verdict_eq]

/-- Settles O48, each clause by what the stuffed payload and the code bytes are read as. -/
theorem attemptEndsAtStopOrEndOfBuffer : Obligations.AttemptEndsAtStopOrEndOfBuffer := by
  intro c hvalid p rest code
  have hp := readsAs_stuffAll c p
  refine ⟨hp.scan_end, hp.scan_dangling, fun hpos => ⟨?_, ?_, ?_, fun hplain => ?_⟩, fun hpos => ⟨?_, ?_⟩⟩
  · exact (ReadsAs.nil.scan_stop hvalid rest).trans (closeFrame_beforeStop_nil hpos ..)
  · exact (readsAs_stuffAll c (p ++ [code])).scan_beforeStop hvalid hpos rest
  · exact (hp.append (readsAs_escaped c code)).scan_beforeStop hvalid hpos rest
  · rw [List.append_cons]
    exact (hp.append (readsAs_plain (mt (c.isDelimiter_iff_mem code).1 hplain))).scan_beforeStop hvalid hpos rest
  · exact (hp.scan_stop hvalid []).trans (closeFrame_afterStop_nil hpos ..)
  · exact hp.scan_afterStop hvalid hpos code rest

end Sys2Proof.Machine
end

section
/-! The bytes an attempt reads and removes (44_deframer.md R126 to R132): from the bytes behind a frame's START it
comes, over the data that each fresh START abandons, to the end of the last frame. -/

namespace Sys2Proof.Machine

open Sys2Proof.Claims

/-- Of the bytes `tail` behind a frame's START, `data` is closed by STOP, with the code byte behind it in the
after-stop layout, and `rest` is not read (R129, R130). -/
def ClosesAt (c : Cfg) (tail data rest : List Byte) : Prop :=
  if c.codePos = .afterStop then ∃ code, tail = data ++ c.stop :: code :: rest else tail = data ++ c.stop :: rest

/-- What an attempt in ACC answers on the bytes behind a frame's START, with n resynchronizations before them. -/
inductive ReadsTo (c : Cfg) : List Byte → Nat → Attempt → Prop where
  | unfinished {tail data p : List Byte} {n : Nat} (hread : ReadsAs c data p)
      (htail : tail = data ∨ tail = data ++ [c.esc] ∨ c.codePos = .afterStop ∧ tail = data ++ [c.stop]) :
      ReadsTo c tail n ⟨.incomplete, [], .acc, tail, n⟩
  | framed {tail data p pay rest : List Byte} {n : Nat} (hread : ReadsAs c data p)
      (hclose : ClosesAt c tail data rest) (hpay : pay.length ≤ p.length) : ReadsTo c tail n ⟨.frame, pay, .seek, rest, n⟩
  | damaged {tail data p rest : List Byte} {n : Nat} (hread : ReadsAs c data p) (hclose : ClosesAt c tail data rest) :
      ReadsTo c tail n ⟨.damaged, [], .seek, rest, n⟩
  | resynchronised {data p rest : List Byte} {n : Nat} {a : Attempt} (hread : ReadsAs c data p)
      (hrest : ReadsTo c rest (n + 1) a) : ReadsTo c (data ++ c.start :: rest) n a

section
variable {c : Cfg} {d acc : List Byte} (h : ReadsAs c d acc)
include h

/-- The verdict on a closed frame, whose payload is all or part of what was accumulated. -/
theorem ReadsAs.verdict_readsTo {tail pay rest : List Byte} (hclose : ClosesAt c tail d rest)
    (hpay : pay.length ≤ acc.length) (code : Byte) (n : Nat) : ReadsTo c tail n (verdict c pay code rest n) := by
  unfold verdict
  split
  · exact .framed h hclose hpay
  · exact .damaged h hclose

theorem ReadsAs.closeFrame_readsTo (n : Nat) (rest : List Byte) :
    ReadsTo c (d ++ c.stop :: rest) n (closeFrame c acc (d ++ c.stop :: rest) n rest) := by
  cases hpos : c.codePos with
  | beforeStop =>
    have hclose : ClosesAt c (d ++ c.stop :: rest) d rest := by simp [ClosesAt, hpos]
    rcases List.eq_nil_or_concat acc with rfl | ⟨pay, code, rfl⟩
    · rw [closeFrame_beforeStop_nil hpos]
      exact .damaged h hclose
    · rw [List.concat_eq_append] at h ⊢
      rw [closeFrame_beforeStop hpos]
      exact h.verdict_readsTo hclose (by simp) code n
  | afterStop =>
    cases rest with
    | nil =>
      rw [closeFrame_afterStop_nil hpos]
      exact .unfinished h (.inr (.inr ⟨hpos, rfl⟩))
    | cons code rest =>
      rw [closeFrame_afterStop hpos]
      exact h.verdict_readsTo (by simp [ClosesAt, hpos]) le_rfl code n

end

/-- The loop of R125 comes to one of these ends, when what it has accumulated are the bytes it has read. -/
theorem scanAcc_readsTo (c : Cfg) (acc entry : List Byte) (n : Nat) (l : List Byte) :
    ∀ d, ReadsAs c d acc → entry = d ++ l → ReadsTo c entry n (scanAcc c acc entry n l) := by
  refine scanAcc_induction
    (P := fun acc entry n l => ∀ d, ReadsAs c d acc → entry = d ++ l → ReadsTo c entry n (scanAcc c acc entry n l))
    c ?nil ?dangling ?escaped ?start ?stop ?data acc entry n l
  case nil =>
    intro acc entry n d h hentry
    rw [scanAcc_nil]
    exact .unfinished h (.inl (by simpa using hentry))
  case dangling =>
    intro acc entry n d h hentry
    rw [scanAcc_dangling]
    exact .unfinished h (.inr (.inl hentry))
  case escaped =>
    intro acc entry n x rest ih d h hentry
    rw [scanAcc_escaped]
    exact ih (d ++ [c.esc, x]) (h.append (readsAs_escaped c x)) (by simp [hentry])
  case start =>
    rintro acc entry n rest hne ih d h rfl
    rw [scanAcc_start hne]
    exact .resynchronised h (ih [] .nil rfl)
  case stop =>
    rintro acc entry n rest hesc hstart d h rfl
    rw [scanAcc_stop hesc hstart]
    exact h.closeFrame_readsTo n rest
  case data =>
    intro acc entry n b rest hesc hstart hstop ih d h hentry
    rw [scanAcc_data hesc hstart hstop]
    exact ih (d ++ [b]) (h.append (.plain hesc hstart hstop .nil)) (by simp [hentry])

theorem scan_acc_readsTo (c : Cfg) (buf : List Byte) : ReadsTo c buf 0 (scan c .acc buf) :=
  scanAcc_readsTo c [] buf 0 buf [] .nil rfl

theorem ClosesAt.removes {c : Cfg} {tail data rest : List Byte} (h : ClosesAt c tail data rest) :
    ∃ removed, tail = removed ++ rest ∧ data.length ≤ removed.length := by
  unfold ClosesAt at h
  split at h
  next =>
    obtain ⟨code, rfl⟩ := h
    exact ⟨data ++ [c.stop, code], by simp, by simp⟩
  next => exact ⟨data ++ [c.stop], by simp [h], by simp⟩

/-- Nothing was removed behind the START of a frame, or another START came last. -/
theorem getLast?_append_start {x : Byte} {removed : List Byte} (h : removed = [] ∨ removed.getLast? = some x)
    (l : List Byte) : (l ++ [x] ++ removed).getLast? = some x := by
  rcases h with rfl | h
  · rw [List.append_nil, List.getLast?_concat]
  · rw [List.getLast?_append, h, Option.some_or]

section
variable {c : Cfg} {tail : List Byte} {n : Nat} {a : Attempt} (h : ReadsTo c tail n a)
include h

/-- Only a frame carries a payload, a closed frame leaves SEEK, and an unfinished one leaves ACC (R125, R131). -/
theorem ReadsTo.answer : (a.outcome ≠ .frame → a.payload = []) ∧ (a.outcome ≠ .incomplete → a.dstate = .seek) ∧
    (a.outcome = .incomplete → a.dstate = .acc) := by
  induction h with
  | unfinished => exact ⟨fun _ => rfl, fun hne => absurd rfl hne, fun _ => rfl⟩
  | framed => exact ⟨fun hne => absurd rfl hne, fun _ => rfl, nofun⟩
  | damaged => exact ⟨fun _ => rfl, fun _ => rfl, nofun⟩
  | resynchronised _ _ ih => exact ih

/-- The payload is made of bytes that were removed. -/
theorem ReadsTo.payload_buf_length_le : a.payload.length + a.buf.length ≤ tail.length := by
  induction h with
  | unfinished => exact (Nat.zero_add _).le
  | framed hread hclose hpay =>
    have hdata := hread.length_le
    obtain ⟨removed, rfl, hremoved⟩ := hclose.removes
    rw [List.length_append]
    exact Nat.add_le_add_right (hpay.trans (hdata.trans hremoved)) _
  | damaged _ hclose =>
    obtain ⟨removed, rfl, _⟩ := hclose.removes
    simp
  | resynchronised _ _ ih =>
    rw [List.length_append, List.length_cons]
    omega

/-- INCOMPLETE removes nothing behind the START of the last frame (R132). -/
theorem ReadsTo.removes : ∃ removed, tail = removed ++ a.buf ∧
    (a.outcome = .incomplete → removed = [] ∧ a.resyncs = n ∨ removed.getLast? = some c.start) := by
  induction h with
  | unfinished => exact ⟨[], rfl, fun _ => .inl ⟨rfl, rfl⟩⟩
  | framed _ hclose | damaged _ hclose =>
    obtain ⟨removed, htail, _⟩ := hclose.removes
    exact ⟨removed, htail, nofun⟩
  | @resynchronised data _ _ _ _ _ _ ih =>
    obtain ⟨removed, rfl, hlast⟩ := ih
    exact ⟨data ++ [c.start] ++ removed, by simp,
      fun hinc => .inr (getLast?_append_start ((hlast hinc).imp And.left id) data)⟩

/-- The abandoned runs of data, one for each resynchronization, and the bytes of the last frame. -/
theorem ReadsTo.classes : ∃ (abandoned : List (List Byte)) (last : List Byte),
    tail = abandoned.flatMap (fun d => d ++ [c.start]) ++ last ∧ (∀ d ∈ abandoned, readAsData c d ≠ none) ∧
    a.resyncs = n + abandoned.length ∧ EndsWithin c last a := by
  induction h with
  | unfinished hread htail => exact ⟨[], _, rfl, nofun, rfl, _, hread.readAsData_ne_none, rfl, rfl, htail⟩
  | framed hread hclose | damaged hread hclose =>
    exact ⟨[], _, rfl, nofun, rfl, _, hread.readAsData_ne_none, hclose⟩
  | @resynchronised data _ _ _ _ hread _ ih =>
    obtain ⟨abandoned, last, rfl, hdata, hcount, hends⟩ := ih
    refine ⟨data :: abandoned, last, by simp, ?_, ?_, hends⟩
    · exact List.forall_mem_cons.2 ⟨hread.readAsData_ne_none, hdata⟩
    · rw [hcount, List.length_cons]
      omega

end

/-- The bytes an attempt removes before it is in ACC: in SEEK, garbage and the first START (R126). -/
def Leads (c : Cfg) : DState → List Byte → Prop
  | .acc, lead => lead = []
  | .seek, lead => ∃ garbage, c.start ∉ garbage ∧ lead = garbage ++ [c.start]

/-- All that an attempt can be: one that finds no START, or one in ACC on the bytes behind those removed before it. -/
theorem scan_cases (c : Cfg) (ds : DState) (buf : List Byte) :
    (ds = .seek ∧ c.start ∉ buf ∧ scan c ds buf = ⟨.incomplete, [], .seek, [], 0⟩) ∨
    ∃ lead tail, buf = lead ++ tail ∧ Leads c ds lead ∧ ReadsTo c tail 0 (scan c ds buf) := by
  cases ds with
  | acc => exact .inr ⟨[], buf, rfl, rfl, scan_acc_readsTo c buf⟩
  | seek =>
    rcases split_at_start c buf with hnone | ⟨g, rest, rfl, hg⟩
    · obtain ⟨_, hscan⟩ := seekDiscardsUpToTheFirstStart c buf [] hnone
      exact .inl ⟨rfl, hnone, hscan⟩
    · refine .inr ⟨g ++ [c.start], rest, List.append_cons .., ⟨g, hg, rfl⟩, ?_⟩
      rw [scan_seek_at_start hg]
      exact scan_acc_readsTo c rest

section
variable {c : Cfg} {ds : DState} {lead tail : List Byte} {a : Attempt} (hlead : Leads c ds lead)
include hlead

/-- INCOMPLETE in ACC removes nothing behind the START of the last frame (R132). -/
theorem Leads.removes (h : ReadsTo c tail 0 a) : ∃ removed, lead ++ tail = removed ++ a.buf ∧
    (a.outcome = .incomplete → a.dstate = .acc →
      removed = [] ∧ ds = .acc ∧ a.resyncs = 0 ∨ removed.getLast? = some c.start) := by
  obtain ⟨removed, rfl, hlast⟩ := h.removes
  refine ⟨lead ++ removed, (List.append_assoc ..).symm, fun hinc _ => ?_⟩
  cases ds with
  | acc =>
    obtain rfl := hlead
    exact (hlast hinc).imp (fun ⟨hnil, hzero⟩ => ⟨hnil, rfl, hzero⟩) id
  | seek =>
    obtain ⟨garbage, _, rfl⟩ := hlead
    exact .inr (getLast?_append_start ((hlast hinc).imp And.left id) garbage)

theorem Leads.classifies (h : ReadsTo c tail 0 a) : Classifies c ds (lead ++ tail) a := by
  obtain ⟨abandoned, last, rfl, hdata, hcount, hends⟩ := h.classes
  refine .inr ⟨lead, abandoned, last, ?_, (List.append_assoc ..).symm, hdata, by omega, hends⟩
  cases ds <;> exact hlead

end

/-- Settles O49, by the two cases of `scan_cases`. -/
theorem scanRemovesOnlyClassifiedBytes : Obligations.ScanRemovesOnlyClassifiedBytes := by
  rintro c ds buf a rfl
  rcases scan_cases c ds buf with ⟨rfl, hnone, hscan⟩ | ⟨lead, tail, hbuf, hlead, h⟩
  · rw [hscan]
    exact ⟨⟨buf, (List.append_nil _).symm, nofun⟩, fun _ => rfl, fun _ => rfl, fun _ _ => rfl, Nat.zero_le _,
      .inl ⟨rfl, hnone, rfl, rfl, rfl⟩⟩
  · generalize scan c ds buf = a at h ⊢
    subst hbuf
    obtain ⟨hpay, hseek, hacc⟩ := h.answer
    have hlength := h.payload_buf_length_le
    refine ⟨hlead.removes h, hpay, hseek, fun hinc hds => ?_, ?_, hlead.classifies h⟩
    · exact nomatch (hacc hinc).symm.trans hds
    · rw [List.length_append]
      omega

end Sys2Proof.Machine
end

section
/-! The commands of the receive side (44_deframer.md R134 to R137), and a second attempt after an INCOMPLETE one
(R141). -/

namespace Sys2Proof.Machine

open Sys2Proof.Claims

/-- An error response as the number of R74. -/
theorem raise_eq_reply (s : State) (st : Status) : s.raise st = .next (reply s (response st.code.toNat 0 0)) := by
  rw [State.raise_eq, respWord_eq_response]
  rfl

theorem exec_rxFeed_of_full {s : State} (hvalid : s.cfgValid = true) (hfull : s.rxbuf.length = s.params.rxbufDepth)
    (b : Byte) : exec (.rxFeed b) s = .next (reply s (response 3 0 0)) :=
  ((needValid_of_valid hvalid _).trans (if_pos hfull)).trans (raise_eq_reply s .efull)

theorem exec_rxFeed_of_room {s : State} (hvalid : s.cfgValid = true) (hroom : s.rxbuf.length < s.params.rxbufDepth)
    (b : Byte) : exec (.rxFeed b) s = .next ((s.setRx s.dstate (s.rxbuf ++ [b])).emit 0) := by
  rw [← respWord_ok_zero_zero]
  exact (needValid_of_valid hvalid _).trans (if_neg hroom.ne)

/-- Settles O42: the guard, the full buffer, and the buffer with room. -/
theorem rxFeedAppendsOneByte : Obligations.RxFeedAppendsOneByte := fun b _ =>
  ⟨fun hinvalid => needValid_ecfg hinvalid _, fun hvalid hfull => exec_rxFeed_of_full hvalid hfull b,
    fun hvalid hroom => exec_rxFeed_of_room hvalid hroom b⟩

/-- Settles O44, by whether the index names a byte of the payload. -/
theorem rxPrdReadsByIndex : Obligations.RxPrdReadsByIndex := by
  refine fun d s => ⟨fun hout => ?_, fun hin => ?_⟩
  · rw [exec, execRxPrd, List.getElem?_eq_none hout]
    exact raise_eq_reply s .erange
  · rw [exec, execRxPrd, List.getElem?_eq_getElem hin, ← byte_toNat_zext]
    exact respond_ok s 0 _

/-- Settles O45; the response OK without a value is the word 0. -/
theorem rxFlushEmptiesTheReceiveSide : Obligations.RxFlushEmptiesTheReceiveSide := by
  intro s
  rw [← respWord_ok_zero_zero]
  rfl

theorem RxOutcome.code_zext (o : RxOutcome) : (o.code.setWidth 8).toNat = o.code.toNat := by cases o <;> decide

/-- RX_EXTRACT in the statements' terms; the payload's length is the response's value when 16 bits hold it (R135). -/
theorem exec_rxExtract_of_valid {s : State} {a : Attempt} (hvalid : s.cfgValid = true)
    (ha : a = scan s.cfg s.dstate s.rxbuf) (hlength : a.payload.length < 2 ^ 16) :
    exec .rxExtract s = .next (reply (s.afterAttempt a)
      (response 0 a.outcome.code.toNat (if a.outcome = .frame then a.payload.length else 0))) := by
  subst ha
  refine ((needValid_of_valid hvalid _).trans (respond_ok ..)).trans ?_
  rw [RxOutcome.code_zext, apply_ite BitVec.toNat, BitVec.toNat_ofNat, Nat.mod_eq_of_lt hlength]
  rfl

/-- The invariant bounds the payload of an attempt by RXBUF_DEPTH (R13). -/
theorem State.Inv.scan_payload_lt {s : State} (h : s.Inv) :
    (scan s.cfg s.dstate s.rxbuf).payload.length < 2 ^ 16 := by
  have hpay := (scan_within s.cfg s.dstate s.rxbuf).payload_le
  obtain ⟨⟨_, hdepth, _⟩, ⟨_, hbuf, _⟩, _⟩ := h
  omega

/-- A counter goes up modulo 2^16 (R33). -/
theorem counter_add (m : Half) (k : Nat) : m + BitVec.ofNat 16 k = BitVec.ofNat 16 ((m.toNat + k) % 2 ^ 16) := by
  apply BitVec.eq_of_toNat_eq
  simp

section
variable (s : State) {a : Attempt}

theorem State.afterAttempt_of_frame (hout : a.outcome = .frame) : s.afterAttempt a = { s with
    dstate := a.dstate, rxbuf := a.buf, rxpay := a.payload, lastout := 1
    resync := s.resync + BitVec.ofNat 16 a.resyncs } := by
  simp only [State.afterAttempt, hout]
  rfl

theorem State.afterAttempt_of_incomplete (hout : a.outcome = .incomplete) : s.afterAttempt a = { s with
    dstate := a.dstate, rxbuf := a.buf, rxpay := [], lastout := 2
    resync := s.resync + BitVec.ofNat 16 a.resyncs } := by
  simp only [State.afterAttempt, hout]
  rfl

theorem State.afterAttempt_of_damaged (hout : a.outcome = .damaged) : s.afterAttempt a = { s with
    dstate := a.dstate, rxbuf := a.buf, rxpay := [], lastout := 3
    resync := s.resync + BitVec.ofNat 16 a.resyncs, damaged := s.damaged + 1 } := by
  simp only [State.afterAttempt, hout]
  rfl

end

/-- Settles O43: the state after the attempt, for each of its outcomes. -/
theorem rxExtractIsOneDecodeAttempt : Obligations.RxExtractIsOneDecodeAttempt := by
  refine fun s => ⟨fun hinvalid => needValid_ecfg hinvalid _, fun hvalid hinv a ha => ?_⟩
  rw [exec_rxExtract_of_valid hvalid ha (ha ▸ hinv.scan_payload_lt), ← counter_add, ← counter_add s.damaged 1]
  refine ⟨fun hout => ?_, fun hout => ?_, fun hout => ?_⟩
  · rw [State.afterAttempt_of_frame s hout, hout]
    rfl
  · rw [State.afterAttempt_of_incomplete s hout, hout]
    rfl
  · rw [State.afterAttempt_of_damaged s hout, hout]
    rfl

/-- RX_EXTRACT that finds a frame without a resynchronization. -/
theorem exec_rxExtract_frame {s : State} {pay rest : List Byte} {ds : DState} (hvalid : s.cfgValid = true)
    (hscan : scan s.cfg s.dstate s.rxbuf = ⟨.frame, pay, ds, rest, 0⟩) (hlength : pay.length < 2 ^ 16) :
    exec .rxExtract s = .next (reply { s with dstate := ds, rxbuf := rest, rxpay := pay, lastout := 1 }
      (response 0 1 pay.length)) := by
  rw [exec_rxExtract_of_valid hvalid hscan.symm hlength, State.afterAttempt_of_frame s rfl, BitVec.add_zero]
  rfl

/-- RX_EXTRACT that finds no frame and resynchronizes on nothing. -/
theorem exec_rxExtract_incomplete {s : State} {buf : List Byte} {ds : DState} (hvalid : s.cfgValid = true)
    (hscan : scan s.cfg s.dstate s.rxbuf = ⟨.incomplete, [], ds, buf, 0⟩) :
    exec .rxExtract s = .next (reply { s with dstate := ds, rxbuf := buf, rxpay := [], lastout := 2 }
      (response 0 2 0)) := by
  rw [exec_rxExtract_of_valid hvalid hscan.symm (by simp), State.afterAttempt_of_incomplete s rfl, BitVec.add_zero]
  rfl

/-- An attempt that is not a FRAME has no payload (R125). -/
theorem scan_payload_of_incomplete {c : Cfg} {ds : DState} {buf : List Byte} {a : Attempt} (ha : scan c ds buf = a)
    (hinc : a.outcome = .incomplete) : a.payload = [] := by
  obtain ⟨_, hpay, _⟩ := scanRemovesOnlyClassifiedBytes c ds buf a ha.symm
  exact hpay (by rw [hinc]; nofun)

/-- From the decoder state and the buffer that an INCOMPLETE attempt left, the attempt comes to the same end, and meets
no START that the first one did not consume (R141). -/
theorem scan_again {c : Cfg} {ds : DState} {buf : List Byte} {a : Attempt} (ha : scan c ds buf = a)
    (hinc : a.outcome = .incomplete) : scan c a.dstate a.buf = ⟨.incomplete, [], a.dstate, a.buf, 0⟩ := by
  have hpay := scan_payload_of_incomplete ha hinc
  have happend := scan_append_of_incomplete (ha ▸ hinc) []
  rw [List.append_nil, List.append_nil, ha] at happend
  generalize scan c a.dstate a.buf = again at happend ⊢
  obtain ⟨outcome, payload, dstate, left, resyncs⟩ := a
  obtain ⟨outcome', payload', dstate', left', resyncs'⟩ := again
  simp only [Attempt.plus, Attempt.mk.injEq] at happend hinc hpay ⊢
  obtain ⟨rfl, rfl, rfl, rfl, hcount⟩ := happend
  exact ⟨hinc, hpay, rfl, rfl, by omega⟩

/-- Settles O54: the second attempt stores what the first one stored. -/
theorem repeatedIncompleteAttemptChangesNothing : Obligations.RepeatedIncompleteAttemptChangesNothing := by
  intro s t hvalid hexec hlast
  obtain rfl := Host.Outcome.next.inj ((needValid_of_valid hvalid _).symm.trans hexec)
  generalize ha : scan s.cfg s.dstate s.rxbuf = a at *
  have hinc : a.outcome = .incomplete := RxOutcome.code_inj hlast
  rw [State.afterAttempt_of_incomplete s hinc]
  exact exec_rxExtract_incomplete hvalid (scan_again ha hinc)

end Sys2Proof.Machine
end

section
/-! Whole frames in the buffer (44_deframer.md R138, R140), and an attempt that closes a frame, with more bytes behind
it. -/

namespace Sys2Proof.Machine

open Sys2Proof.Claims

theorem State.Inv.cfg_valid {s : State} (h : s.Inv) (hvalid : s.cfgValid = true) : s.cfg.Valid := by
  obtain ⟨_, _, ⟨hpassed, _⟩, _⟩ := h
  exact (hpassed hvalid).1

/-- Behind the START of a frame, the frame is closed and its code is that of its payload (R113 to R115, R131). -/
theorem scan_acc_trailer {c : Cfg} (hvalid : c.Valid) (p rest : List Byte) :
    scan c .acc (c.stuffAll p ++ c.trailerOf (c.codeOf p) ++ rest) = ⟨.frame, p, .seek, rest, 0⟩ := by
  have hp := readsAs_stuffAll c p
  cases hpos : c.codePos with
  | beforeStop =>
    simpa [Cfg.trailerOf, hpos] using
      (hp.append (readsAs_codeBytes hvalid hpos p)).scan_beforeStop hvalid hpos rest
  | afterStop => simpa [Cfg.trailerOf, hpos] using hp.scan_afterStop hvalid hpos (c.codeOf p) rest

/-- Garbage and a frame behind it: the frame is found, and what follows it is left (R138, R140). -/
theorem scan_seek_frameBytes {c : Cfg} (hvalid : c.Valid) {g : List Byte} (hg : c.start ∉ g) (p rest : List Byte) :
    scan c .seek (g ++ c.frameBytes p ++ rest) = ⟨.frame, p, .seek, rest, 0⟩ := by
  have hsplit : g ++ c.frameBytes p ++ rest =
      g ++ c.start :: (c.stuffAll p ++ c.trailerOf (c.codeOf p) ++ rest) := by simp [Cfg.frameBytes]
  rw [hsplit, scan_seek_at_start hg, scan_acc_trailer hvalid]

/-- RX_EXTRACT on garbage and a frame (R140). -/
theorem exec_rxExtract_frameBytes {s : State} (hinv : s.Inv) (hvalid : s.cfgValid = true) (hseek : s.dstate = .seek)
    {g p rest : List Byte} (hg : s.cfg.start ∉ g) (hbuf : s.rxbuf = g ++ s.cfg.frameBytes p ++ rest) :
    exec .rxExtract s = .next (reply { s with rxbuf := rest, rxpay := p, lastout := 1 } (response 0 1 p.length)) := by
  have hscan : scan s.cfg s.dstate s.rxbuf = ⟨.frame, p, .seek, rest, 0⟩ := by
    rw [hseek, hbuf]
    exact scan_seek_frameBytes (hinv.cfg_valid hvalid) hg p rest
  have hlength := hinv.scan_payload_lt
  rw [hscan] at hlength
  simpa [← hseek] using exec_rxExtract_frame hvalid hscan hlength

/-- RX_EXTRACT while seeking in an empty buffer (R126). -/
theorem exec_rxExtract_empty {s : State} (hvalid : s.cfgValid = true) (hseek : s.dstate = .seek)
    (hbuf : s.rxbuf = []) :
    exec .rxExtract s = .next (reply { s with rxpay := [], lastout := 2 } (response 0 2 0)) := by
  have hscan : scan s.cfg s.dstate s.rxbuf = ⟨.incomplete, [], .seek, [], 0⟩ := by rw [hseek, hbuf, scan_seek_nil]
  simpa [← hseek, ← hbuf] using exec_rxExtract_incomplete hvalid hscan

/-- Settles O53: each RX_EXTRACT takes the next frame, and the third one finds the buffer empty. -/
theorem garbageThenTwoFrames : Obligations.GarbageThenTwoFrames := by
  refine ⟨fun s g p rest hinv hvalid hseek hg hbuf => exec_rxExtract_frameBytes hinv hvalid hseek hg hbuf,
    fun s g p q hinv hvalid hseek hg hbuf => ?_⟩
  have hfirst := exec_rxExtract_frameBytes hinv hvalid hseek hg hbuf
  have hsecond := exec_rxExtract_frameBytes (s := reply _ _) (g := []) (p := q) (rest := []) (hinv.exec hfirst) hvalid
    hseek List.not_mem_nil (by simp [reply])
  refine ⟨_, _, _, hfirst, hsecond, exec_rxExtract_empty hvalid hseek rfl, ?_⟩
  simp [reply, hseek]

/-- The state after RX_FEED for every byte of a list, each answered by the word 0. -/
def State.afterFeeds (s : State) (l : List Byte) : State :=
  { s with rxbuf := s.rxbuf ++ l, resp := s.resp ++ List.replicate l.length 0 }

/-- RX_FEED for every byte of a list that fits RXBUF responds OK each time (R134). -/
theorem okRun_feeds (is : List Instr) (l : List Byte) : ∀ s : State, s.cfgValid = true →
    s.rxbuf.length + l.length ≤ s.params.rxbufDepth →
    okRun (l.map .rxFeed ++ is) s =
      (okRun is (s.afterFeeds l)).map (fun q => (List.replicate l.length 0 ++ q.1, q.2)) := by
  induction l with
  | nil => intro s _ _; simp [State.afterFeeds]
  | cons b l ih =>
    intro s hvalid hroom
    rw [List.length_cons] at hroom
    have hrest := ih ((s.setRx s.dstate (s.rxbuf ++ [b])).emit 0) hvalid (by simp; omega)
    rw [List.map_cons, List.cons_append, okRun_cons_of_ok (exec_rxFeed_of_room hvalid (by omega) b) (by decide),
      hrest]
    simp [State.afterFeeds, State.emit, State.setRx, List.replicate_succ, Function.comp_def]

theorem State.Inv.afterFeeds {s : State} (h : s.Inv) {l : List Byte}
    (hroom : s.rxbuf.length + l.length ≤ s.params.rxbufDepth) : (s.afterFeeds l).Inv :=
  h.setRxbuf ((List.length_append ..).trans_le hroom)

/-- A run of the one command RX_EXTRACT that found a frame responds OK. -/
theorem okRun_rxExtract {s t : State} {n : Nat} (hlength : n < 2 ^ 16)
    (hexec : exec .rxExtract s = .next (reply t (response 0 1 n))) :
    okRun [.rxExtract] s = some ([response 0 1 n], reply t (response 0 1 n)) := by
  have hword : response 0 1 n = respWord .ok 1 (BitVec.ofNat 16 n) := by
    rw [respWord_eq_response, BitVec.toNat_ofNat, Nat.mod_eq_of_lt hlength]
    rfl
  have hok : responseOk (response 0 1 n) = true := hword ▸ (responseOk_respWord ..).2 rfl
  exact okRun_cons_of_ok (t := t) hexec hok

/-- Settles O50: the fed bytes are the buffer of the attempt; nothing is fed of the empty payload. -/
theorem fedFrameRoundTrips : Obligations.FedFrameRoundTrips := by
  refine ⟨fun s p hinv hvalid hseek hbuf hfits => ?_,
    fun s hvalid hseek hbuf => ⟨rfl, exec_rxExtract_empty hvalid hseek hbuf⟩⟩
  have hroom : s.rxbuf.length + (s.cfg.frameBytes p).length ≤ s.params.rxbufDepth := by simpa [hbuf] using hfits
  have hlength : p.length < 2 ^ 16 := by
    obtain ⟨_, _, hmin, _⟩ := frameBytesOfAChunk s.cfg p
    obtain ⟨⟨_, hdepth, _⟩, _⟩ := hinv
    omega
  have hexec := exec_rxExtract_frameBytes (s := s.afterFeeds (s.cfg.frameBytes p)) (g := []) (p := p) (rest := [])
    (hinv.afterFeeds hroom) hvalid hseek List.not_mem_nil (by simp [State.afterFeeds, hbuf])
  refine ⟨List.replicate (s.cfg.frameBytes p).length 0, ?_⟩
  rw [okRun_feeds _ _ s hvalid hroom, okRun_rxExtract hlength hexec]
  simp [State.afterFeeds, reply, ← hbuf]

end Sys2Proof.Machine
end

section
/-! Incremental delivery (44_deframer.md R139): an attempt on part of a frame is INCOMPLETE, and the frames a host sees
are those of its attempts, whether it makes one after every byte or all of them at the end. -/

namespace Sys2Proof.Machine

open Sys2Proof.Claims

/-- The same attempt with more bytes behind those it leaves. -/
def Attempt.followedBy (a : Attempt) (more : List Byte) : Attempt := { a with buf := a.buf ++ more }

theorem verdict_followedBy (c : Cfg) (pay : List Byte) (code : Byte) (rest more : List Byte) (n : Nat) :
    verdict c pay code (rest ++ more) n = (verdict c pay code rest n).followedBy more := by
  unfold verdict
  split <;> rfl

theorem closeFrame_followedBy {c : Cfg} {acc entry rest : List Byte} {n : Nat}
    (hclosed : (closeFrame c acc entry n rest).outcome ≠ .incomplete) (entry' more : List Byte) :
    closeFrame c acc entry' n (rest ++ more) = (closeFrame c acc entry n rest).followedBy more := by
  cases hpos : c.codePos with
  | beforeStop =>
    rcases List.eq_nil_or_concat' acc with rfl | ⟨pay, code, rfl⟩
    · rw [closeFrame_beforeStop_nil hpos, closeFrame_beforeStop_nil hpos]
      rfl
    · rw [closeFrame_beforeStop hpos, closeFrame_beforeStop hpos, verdict_followedBy]
  | afterStop =>
    cases rest with
    | nil =>
      rw [closeFrame_afterStop_nil hpos] at hclosed
      exact absurd rfl hclosed
    | cons code rest =>
      rw [List.cons_append, closeFrame_afterStop hpos, closeFrame_afterStop hpos, verdict_followedBy]

/-- An attempt that closes a frame reads no byte behind it (R129, R130). -/
theorem scanAcc_followedBy (c : Cfg) (more acc entry : List Byte) (n : Nat) (l : List Byte) :
    ∀ entry', (scanAcc c acc entry n l).outcome ≠ .incomplete →
      scanAcc c acc entry' n (l ++ more) = (scanAcc c acc entry n l).followedBy more := by
  refine scanAcc_induction
    (P := fun acc entry n l => ∀ entry', (scanAcc c acc entry n l).outcome ≠ .incomplete →
      scanAcc c acc entry' n (l ++ more) = (scanAcc c acc entry n l).followedBy more)
    c ?nil ?dangling ?escaped ?start ?stop ?data acc entry n l
  case nil =>
    intro acc entry n entry' hclosed
    rw [scanAcc_nil] at hclosed
    exact absurd rfl hclosed
  case dangling =>
    intro acc entry n entry' hclosed
    rw [scanAcc_dangling] at hclosed
    exact absurd rfl hclosed
  case escaped =>
    intro acc entry n x rest ih entry' hclosed
    rw [scanAcc_escaped] at hclosed ⊢
    exact (scanAcc_escaped ..).trans (ih entry' hclosed)
  case start =>
    intro acc entry n rest hne ih entry' hclosed
    rw [scanAcc_start hne] at hclosed ⊢
    exact (scanAcc_start hne ..).trans (ih (rest ++ more) hclosed)
  case stop =>
    intro acc entry n rest hesc hstart entry' hclosed
    rw [scanAcc_stop hesc hstart] at hclosed ⊢
    exact (scanAcc_stop hesc hstart ..).trans (closeFrame_followedBy hclosed entry' more)
  case data =>
    intro acc entry n b rest hesc hstart hstop ih entry' hclosed
    rw [scanAcc_data hesc hstart hstop] at hclosed ⊢
    exact (scanAcc_data hesc hstart hstop ..).trans (ih entry' hclosed)

theorem scan_seek_followedBy {c : Cfg} {buf : List Byte} (hclosed : (scan c .seek buf).outcome ≠ .incomplete)
    (more : List Byte) : scan c .seek (buf ++ more) = (scan c .seek buf).followedBy more := by
  rcases split_at_start c buf with hnone | ⟨g, rest, rfl, hg⟩
  · obtain ⟨_, hscan⟩ := seekDiscardsUpToTheFirstStart c buf [] hnone
    rw [hscan] at hclosed
    exact absurd rfl hclosed
  · rw [scan_seek_at_start hg] at hclosed ⊢
    rw [List.append_assoc, List.cons_append, scan_seek_at_start hg]
    exact scanAcc_followedBy c more [] rest 0 rest (rest ++ more) hclosed

theorem scan_frameBytes {c : Cfg} (hvalid : c.Valid) (p rest : List Byte) :
    scan c .seek (c.frameBytes p ++ rest) = ⟨.frame, p, .seek, rest, 0⟩ :=
  scan_seek_frameBytes hvalid List.not_mem_nil p rest

/-- Part of a frame is INCOMPLETE: an attempt that closed a frame would leave what comes behind it unread, and what an
INCOMPLETE attempt counts is counted of the whole frame too (R139). -/
theorem scan_frame_part {c : Cfg} (hvalid : c.Valid) {p u v : List Byte} (hsplit : c.frameBytes p = u ++ v)
    (hv : v ≠ []) : (scan c .seek u).outcome = .incomplete ∧ (scan c .seek u).resyncs = 0 := by
  have hwhole : scan c .seek (u ++ v) = ⟨.frame, p, .seek, [], 0⟩ := by
    rw [← hsplit, ← List.append_nil (c.frameBytes p), scan_frameBytes hvalid]
  have hinc : (scan c .seek u).outcome = .incomplete := by
    by_contra hclosed
    have hbuf := congrArg Attempt.buf ((scan_seek_followedBy hclosed v).symm.trans hwhole)
    exact hv (List.append_eq_nil_iff.1 hbuf).2
  have hcount := congrArg Attempt.resyncs ((scan_append_of_incomplete hinc v).symm.trans hwhole)
  exact ⟨hinc, (Nat.add_eq_zero_iff.1 hcount).2⟩

/-- The attempt on one byte more goes on from what the attempt on part of a frame left (R43). -/
theorem scan_frame_resume {c : Cfg} (hvalid : c.Valid) {p u v : List Byte} (hsplit : c.frameBytes p = u ++ v)
    (hv : v ≠ []) (more : List Byte) :
    scan c (scan c .seek u).dstate ((scan c .seek u).buf ++ more) = scan c .seek (u ++ more) := by
  obtain ⟨hinc, hcount⟩ := scan_frame_part hvalid hsplit hv
  rw [scan_append_of_incomplete hinc more, hcount]
  rfl

/-- Of part of a frame, at least START is not kept. -/
theorem scan_frame_buf_length {c : Cfg} {p u v : List Byte} (hsplit : c.frameBytes p = u ++ v) :
    (scan c .seek u).buf.length ≤ u.length - 1 := by
  cases u with
  | nil => rw [scan_seek_nil]; exact le_rfl
  | cons b u =>
    obtain rfl : c.start = b := (List.cons.inj hsplit).1
    rw [scan_seek_start]
    exact (scan_within c .acc u).buf_suffix.length_le

/-- The payload that an attempt shows, if it found a frame. -/
def Attempt.shown (a : Attempt) : List (List Byte) := if a.outcome = .frame then [a.payload] else []

/-- A block with configuration `c` in force and room for `depth` bytes in RXBUF, whose decoder is in state `ds` and
holds `buf`. -/
structure State.Receives (s : State) (c : Cfg) (depth : Nat) (ds : DState) (buf : List Byte) : Prop where
  cfg : s.cfg = c
  cfgValid : s.cfgValid = true
  depth : s.params.rxbufDepth = depth
  dstate : s.dstate = ds
  rxbuf : s.rxbuf = buf

/-- From `s` these commands show the payloads `shown` and come to `t`, whatever commands follow. -/
def Shows (s : State) (is : List Instr) (shown : List (List Byte)) (t : State) : Prop :=
  ∀ more, framesSeen (is ++ more) s = shown ++ framesSeen more t

theorem Shows.nil (s : State) : Shows s [] [] s := fun _ => rfl

theorem Shows.append {s t u : State} {is js : List Instr} {shown shown' : List (List Byte)}
    (first : Shows s is shown t) (second : Shows t js shown' u) : Shows s (is ++ js) (shown ++ shown') u := by
  intro more
  rw [List.append_assoc, first, second, List.append_assoc]

theorem Shows.framesSeen_eq {s t : State} {is : List Instr} {shown : List (List Byte)} (h : Shows s is shown t) :
    framesSeen is s = shown := by
  simpa [framesSeen] using h []

/-- RXPAY after an attempt with the outcome FRAME is its payload (R135). -/
theorem State.shown_afterAttempt (s : State) (a : Attempt) :
    (if (s.afterAttempt a).lastout = 1 then [(s.afterAttempt a).rxpay] else []) = a.shown := by
  cases hout : a.outcome with
  | frame => simp [State.afterAttempt_of_frame s hout, Attempt.shown, hout]
  | incomplete => simp [State.afterAttempt_of_incomplete s hout, Attempt.shown, hout]
  | damaged => simp [State.afterAttempt_of_damaged s hout, Attempt.shown, hout]

section
variable {s : State} {c : Cfg} {depth : Nat} {ds : DState} {buf : List Byte} (h : s.Receives c depth ds buf)
include h

/-- RX_FEED shows nothing. -/
theorem State.Receives.feed (hroom : buf.length < depth) (b : Byte) :
    ∃ t, Shows s [.rxFeed b] [] t ∧ t.Receives c depth ds (buf ++ [b]) := by
  obtain ⟨rfl, hvalid, rfl, rfl, rfl⟩ := h
  refine ⟨(s.setRx s.dstate (s.rxbuf ++ [b])).emit 0, fun more => ?_, ⟨rfl, hvalid, rfl, rfl, rfl⟩⟩
  simp [framesSeen, exec_rxFeed_of_room hvalid hroom b]

/-- RX_EXTRACT shows what its attempt shows. -/
theorem State.Receives.extract : ∃ t, Shows s [.rxExtract] (scan c ds buf).shown t ∧
    t.Receives c depth (scan c ds buf).dstate (scan c ds buf).buf := by
  obtain ⟨rfl, hvalid, rfl, rfl, rfl⟩ := h
  obtain ⟨r, hexec⟩ : ∃ r, exec .rxExtract s = .next ((s.afterAttempt (scan s.cfg s.dstate s.rxbuf)).emit r) :=
    ⟨_, needValid_of_valid hvalid _⟩
  generalize scan s.cfg s.dstate s.rxbuf = a at hexec ⊢
  refine ⟨(s.afterAttempt a).emit r, fun more => ?_, ⟨rfl, hvalid, rfl, rfl, rfl⟩⟩
  simp [framesSeen, hexec, ← State.shown_afterAttempt s]

end

theorem State.Receives.feeds {c : Cfg} {depth : Nat} {ds : DState} (l : List Byte) :
    ∀ {s : State} {buf : List Byte}, s.Receives c depth ds buf → buf.length + l.length ≤ depth →
    ∃ t, Shows s (l.map .rxFeed) [] t ∧ t.Receives c depth ds (buf ++ l) := by
  induction l with
  | nil => exact fun {s buf} h _ => ⟨s, .nil s, (List.append_nil buf).symm ▸ h⟩
  | cons b l ih =>
    intro s buf h hroom
    rw [List.length_cons] at hroom
    obtain ⟨t, hfirst, ht⟩ := h.feed (by omega) b
    obtain ⟨u, hrest, hu⟩ := ih ht (by rw [List.length_append, List.length_singleton]; omega)
    exact ⟨u, hfirst.append hrest, List.append_cons .. ▸ hu⟩

section
variable {c : Cfg} (hvalid : c.Valid) {depth : Nat}
include hvalid

/-- RX_EXTRACT over frames in the buffer shows them one after the other, and nothing at the end (R140). -/
theorem State.Receives.extracts (ps : List (List Byte)) : ∀ {s : State},
    s.Receives c depth .seek (ps.flatMap c.frameBytes) →
    framesSeen (List.replicate (ps.length + 1) .rxExtract) s = ps := by
  induction ps with
  | nil =>
    intro s h
    obtain ⟨t, hshows, _⟩ := h.extract
    exact hshows.framesSeen_eq
  | cons p ps ih =>
    intro s h
    obtain ⟨t, hshows, ht⟩ := h.extract
    rw [List.flatMap_cons, scan_frameBytes hvalid] at hshows ht
    calc framesSeen (.rxExtract :: List.replicate (ps.length + 1) .rxExtract) s
        = [p] ++ framesSeen (List.replicate (ps.length + 1) .rxExtract) t := hshows _
      _ = p :: ps := by rw [ih ht, List.singleton_append]

/-- The two commands of a byte that is fed and followed by an attempt. -/
def feedAndExtract (b : Byte) : List Instr := [.rxFeed b, .rxExtract]

/-- A frame fed from a byte `u` bytes into it, with an attempt after every byte, is shown with its last byte (R139).
The part of it that is kept never fills RXBUF before that. -/
theorem State.Receives.bytewise_frame {p : List Byte} (hdepth : 1 ≤ depth)
    (hfits : (c.frameBytes p).length ≤ depth + 1) (v : List Byte) : ∀ {u : List Byte} {s : State},
    c.frameBytes p = u ++ v → v ≠ [] → s.Receives c depth (scan c .seek u).dstate (scan c .seek u).buf →
    ∃ t, Shows s (v.flatMap feedAndExtract) [p] t ∧ t.Receives c depth .seek [] := by
  induction v with
  | nil => exact fun _ hv => absurd rfl hv
  | cons b v ih =>
    intro u s hsplit hv h
    have hkept := scan_frame_buf_length hsplit
    have hlength := congrArg List.length hsplit
    rw [List.length_append, List.length_cons] at hlength
    obtain ⟨t, hfeed, ht⟩ := h.feed (by omega) b
    obtain ⟨w, hextract, hw⟩ := ht.extract
    rw [scan_frame_resume hvalid hsplit hv] at hextract hw
    have hstep := hfeed.append hextract
    rw [List.append_cons] at hsplit
    by_cases hlast : v = []
    · subst hlast
      have hwhole : scan c .seek (u ++ [b]) = ⟨.frame, p, .seek, [], 0⟩ := by
        rw [← scan_frameBytes hvalid p [], List.append_nil, hsplit, List.append_nil]
      rw [hwhole] at hstep hw
      exact ⟨w, hstep, hw⟩
    · obtain ⟨hinc, _⟩ := scan_frame_part hvalid hsplit hlast
      obtain ⟨x, hrest, hx⟩ := ih hsplit hlast hw
      rw [Attempt.shown, hinc] at hstep
      exact ⟨x, hstep.append hrest, hx⟩

theorem State.Receives.bytewise (hdepth : 1 ≤ depth) (ps : List (List Byte)) : ∀ {s : State},
    s.Receives c depth .seek [] → (∀ p ∈ ps, (c.frameBytes p).length ≤ depth + 1) →
    ∃ t, Shows s ((ps.flatMap c.frameBytes).flatMap feedAndExtract) ps t := by
  induction ps with
  | nil => exact fun {s} _ _ => ⟨s, .nil s⟩
  | cons p ps ih =>
    intro s h hfits
    obtain ⟨hfirst, hothers⟩ := List.forall_mem_cons.1 hfits
    obtain ⟨t, hshows, ht⟩ := State.Receives.bytewise_frame hvalid hdepth hfirst (c.frameBytes p) (u := []) rfl
      (by simp [Cfg.frameBytes]) h
    obtain ⟨u, hrest⟩ := ih ht hothers
    rw [List.flatMap_cons, List.flatMap_append]
    exact ⟨u, hshows.append hrest⟩

end

/-- Settles O52: parts of a frame by `scan_frame_part`, and both deliveries from the same block, which seeks in an
empty buffer. -/
theorem incrementalDeliveryGivesTheSameFrames : Obligations.IncrementalDeliveryGivesTheSameFrames := by
  refine ⟨fun c p hvalid => ⟨fun u v hsplit hv => scan_frame_part hvalid hsplit hv, scan_frameBytes hvalid p⟩,
    fun s ps hinv hvalid hseek hbuf => ?_⟩
  have hcfg := hinv.cfg_valid hvalid
  have h : s.Receives s.cfg s.params.rxbufDepth .seek [] := ⟨rfl, hvalid, rfl, hseek, hbuf⟩
  obtain ⟨⟨hdepth, _⟩, _⟩ := hinv
  refine ⟨fun hfits => ?_, fun hfits => ?_⟩
  · obtain ⟨t, hshows⟩ := State.Receives.bytewise hcfg hdepth ps h hfits
    exact hshows.framesSeen_eq
  · obtain ⟨t, hshows, ht⟩ := State.Receives.feeds (ps.flatMap s.cfg.frameBytes) h
      (by rwa [List.length_nil, Nat.zero_add])
    rw [hshows]
    exact ht.extracts hcfg ps

end Sys2Proof.Machine
end

section
/-! Errors (60_exceptions.md R142, R144): every step has a next state, and ECFG comes from the guard of the nine
commands that compute with the configuration, from nowhere else. -/

namespace Sys2Proof.Machine

open Sys2Proof.Claims

/-- A step never faults and is never refused: with nothing pending it answers the same state, and otherwise it takes the
oldest input. -/
theorem step_answers_next (s : State) : ∃ t, step s = .next t := by
  cases hcmd : s.cmd with
  | nil => exact ⟨s, step_of_idle hcmd⟩
  | cons input rest =>
    obtain ⟨t, hstep, _⟩ := step_advances hcmd
    exact ⟨t, hstep⟩

/-- A command never faults and is never refused (R142). -/
theorem exec_answers_next (i : Instr) (s : State) : ∃ t, exec i s = .next t := by
  obtain ⟨t, hexec, _⟩ := (exec_answers i s).advances
  exact ⟨t, hexec⟩

/-- Settles O14, by the ways a step and a command can end. -/
theorem everyStepAnswersANextState : Obligations.EveryStepAnswersANextState :=
  ⟨step_answers_next, exec_answers_next, fun _ => step_of_idle⟩

/-- A command that started in state `s` ends with one response, of a status other than ECFG. -/
inductive EndsWithoutEcfg (s : State) : Result → Prop where
  | responds {t : State} {st : Status} {x : Byte} {v : Half} (ports : KeepsPorts s t) (other : st ≠ .ecfg) :
      EndsWithoutEcfg s (t.respond st x v)

theorem EndsWithoutEcfg.ok {s t : State} {x : Byte} {v : Half} (ports : KeepsPorts s t) :
    EndsWithoutEcfg s (t.respond .ok x v) :=
  .responds ports nofun

theorem EndsWithoutEcfg.raises {s : State} {st : Status} (other : st ≠ .ecfg) : EndsWithoutEcfg s (s.raise st) :=
  .responds (.refl s) other

/-- The status is read from bits 31:28 of the response word (R74). -/
theorem EndsWithoutEcfg.status_ne {s : State} {result : Result} (h : EndsWithoutEcfg s result) :
    ∃ t r, result = .next t ∧ t.resp = s.resp ++ [r] ∧ r.extractLsb' 28 4 ≠ 2#4 := by
  obtain @⟨t, st, x, v, ports, other⟩ := h
  refine ⟨_, respWord st x v, t.respond_eq st x v, by rw [State.emit_resp, ports.resp], ?_⟩
  rw [respWord_status]
  exact fun hcode => other (Status.code_inj hcode)

/-! The meanings of the nine commands, behind the guard. -/

theorem stuffResponse_endsWithoutEcfg (s : State) (out : List Byte) : EndsWithoutEcfg s (stuffResponse s out) := by
  unfold stuffResponse
  split <;> exact .ok ⟨rfl, rfl, rfl⟩

/-- A full TXQ is EFULL (R118, R120). -/
theorem sendBytes_endsWithoutEcfg (s : State) (out : List Byte) (inf : Bool) (cnt : Half) (crc : Byte) (par : Bool) :
    EndsWithoutEcfg s (s.sendBytes out inf cnt crc par) :=
  iteInduction (motive := EndsWithoutEcfg s) (fun _ => .raises nofun) (fun _ => .ok ⟨rfl, rfl, rfl⟩)

/-! The commands without the guard that can raise an error or find a bad configuration. -/

theorem execCfgWr_endsWithoutEcfg (a : Byte) (d : Half) (s : State) : EndsWithoutEcfg s (execCfgWr a d s) := by
  unfold execCfgWr
  split
  · exact .raises nofun
  · exact .ok ⟨rfl, rfl, rfl⟩

theorem execCsrRd_endsWithoutEcfg (a : Byte) (s : State) : EndsWithoutEcfg s (execCsrRd a s) := by
  unfold execCsrRd
  split
  · exact .raises nofun
  · exact .ok ⟨rfl, rfl, rfl⟩

/-- A configuration that fails a check is EBADCFG (R87). -/
theorem execCfgCommit_endsWithoutEcfg (s : State) : EndsWithoutEcfg s (execCfgCommit s) :=
  iteInduction (motive := EndsWithoutEcfg s) (fun _ => .ok ⟨rfl, rfl, rfl⟩) (fun _ => .responds ⟨rfl, rfl, rfl⟩ nofun)

theorem execTxPop_endsWithoutEcfg (s : State) : EndsWithoutEcfg s (execTxPop s) := by
  unfold execTxPop
  split
  · exact .raises nofun
  · exact .ok ⟨rfl, rfl, rfl⟩

theorem execRxPrd_endsWithoutEcfg (d : Half) (s : State) : EndsWithoutEcfg s (execRxPrd d s) := by
  unfold execRxPrd
  split
  · exact .raises nofun
  · exact .ok ⟨rfl, rfl, rfl⟩

/-- Where the guard of R144 stands in a command's result, by whether the command needs the configuration. What stands
behind the guard, and every command without it, does not respond ECFG. -/
inductive Guarded (s : State) : Bool → Result → Prop where
  | needing {meaning : Result} (h : EndsWithoutEcfg s meaning) : Guarded s true (s.needValid meaning)
  | free {result : Result} (h : EndsWithoutEcfg s result) : Guarded s false result

/-- The guard stands before the nine commands R144 lists, and before no other. -/
theorem exec_guarded (i : Instr) (s : State) : Guarded s (needsConfiguration i.op) (exec i s) := by
  cases i with
  | nop => exact .free (.ok ⟨rfl, rfl, rfl⟩)
  | cfgWr a d => exact .free (execCfgWr_endsWithoutEcfg a d s)
  | csrRd a => exact .free (execCsrRd_endsWithoutEcfg a s)
  | cfgCommit => exact .free (execCfgCommit_endsWithoutEcfg s)
  | softReset => exact .free (.ok ⟨rfl, rfl, rfl⟩)
  | stuff b => exact .needing (stuffResponse_endsWithoutEcfg s _)
  | engClr => exact .needing (.ok ⟨rfl, rfl, rfl⟩)
  | engByte b => exact .needing (.ok ⟨rfl, rfl, rfl⟩)
  | engCompute => exact .needing (.ok ⟨rfl, rfl, rfl⟩)
  | engVerify b => exact .needing (.ok ⟨rfl, rfl, rfl⟩)
  | txByte b =>
    exact .needing (iteInduction (motive := EndsWithoutEcfg s) (fun _ => sendBytes_endsWithoutEcfg ..)
      (fun _ => sendBytes_endsWithoutEcfg ..))
  | txEnd =>
    exact .needing (iteInduction (motive := EndsWithoutEcfg s) (fun _ => sendBytes_endsWithoutEcfg ..)
      (fun _ => .ok ⟨rfl, rfl, rfl⟩))
  | txPop => exact .free (execTxPop_endsWithoutEcfg s)
  | rxFeed b =>
    exact .needing (iteInduction (motive := EndsWithoutEcfg s) (fun _ => .raises nofun) (fun _ => .ok ⟨rfl, rfl, rfl⟩))
  | rxExtract => exact .needing (.ok ⟨rfl, rfl, rfl⟩)
  | rxPrd d => exact .free (execRxPrd_endsWithoutEcfg d s)
  | rxFlush => exact .free (.ok ⟨rfl, rfl, rfl⟩)

/-- The guard answers ECFG and nothing else while no configuration is in force. -/
theorem Guarded.ecfg {s : State} {result : Result} (h : Guarded s true result) (hinvalid : s.cfgValid = false) :
    result = .next (reply s (response 2 0 0)) := by
  cases h with
  | needing => exact needValid_ecfg hinvalid _

theorem Guarded.endsWithoutEcfg {s : State} {needs : Bool} {result : Result} (h : Guarded s needs result)
    (hfree : needs = false ∨ s.cfgValid = true) : EndsWithoutEcfg s result := by
  cases h with
  | free hends => exact hends
  | needing hends =>
    have hvalid : s.cfgValid = true := hfree.resolve_left nofun
    rwa [needValid_of_valid hvalid]

/-- Settles O22, by where the guard stands. -/
theorem ecfgExactlyWhenTheConfigurationIsNeeded : Obligations.EcfgExactlyWhenTheConfigurationIsNeeded := by
  intro i s
  have h := exec_guarded i s
  refine ⟨fun hneeds hinvalid => ?_, fun hfree => (h.endsWithoutEcfg hfree).status_ne⟩
  rw [hneeds] at h
  exact h.ecfg hinvalid

end Sys2Proof.Machine
end

section
/-! The two ways to reset the block (40_control.md R89, 70_reset_and_hazards.md R156), and the receive side stuck on a
full buffer of one unfinished frame (R163). -/

namespace Sys2Proof.Machine

open Sys2Proof.Claims

/-- The ports and the parameters are no elements of R45. -/
theorem State.atReset_resetBlock (s : State) : AtReset s.resetBlock := atReset_resetOf s.params

theorem atReset_emit {s : State} (h : AtReset s) (r : Word) : AtReset (s.emit r) := h

theorem exec_softReset (s : State) : exec .softReset s = .next (s.resetBlock.emit 0) := by
  rw [← respWord_ok_zero_zero]
  rfl

/-- Settles O10: both are `State.resetBlock`, SOFT_RESET with a response. -/
theorem rstAndSoftResetPutEveryElementToItsResetValue :
    Obligations.RstAndSoftResetPutEveryElementToItsResetValue :=
  ⟨fun s rest hcmd => ⟨_, step_of_rst hcmd, (s.setCmd rest).atReset_resetBlock, rfl, rfl, rfl⟩,
    fun s => ⟨_, exec_softReset s, atReset_emit s.atReset_resetBlock 0, rfl, rfl, rfl⟩⟩

/-- An INCOMPLETE attempt that meets no fresh START keeps every byte behind the frame's own (R132). -/
theorem ReadsTo.eq_of_incomplete {c : Cfg} {tail : List Byte} {n : Nat} {a : Attempt} (h : ReadsTo c tail n a)
    (hinc : a.outcome = .incomplete) (hcount : a.resyncs = n) : a = ⟨.incomplete, [], .acc, tail, n⟩ := by
  cases h with
  | unfinished => rfl
  | framed | damaged => nomatch hinc
  | resynchronised _ hrest =>
    obtain ⟨_, _, _, _, hmore, _⟩ := hrest.classes
    omega

/-- R13 gives RXBUF at least one byte, so an empty one has room. -/
theorem exec_rxFeed_of_empty {s : State} (hparams : s.params.InRange) (hvalid : s.cfgValid = true)
    (hempty : s.rxbuf = []) (b : Byte) :
    exec (.rxFeed b) s = .next (reply { s with rxbuf := [b] } 0) := by
  obtain ⟨hdepth, _⟩ := hparams
  rw [exec_rxFeed_of_room hvalid (by rw [hempty]; exact hdepth), hempty]
  rfl

/-- Settles O55: RX_FEED meets a full buffer, the attempt closes no frame and meets no fresh START, so it
keeps that buffer, and RX_FLUSH empties it. -/
theorem fullBufferOfAnUnfinishedFrameIsStuck : Obligations.FullBufferOfAnUnfinishedFrameIsStuck := by
  intro s hinv hvalid hacc hfull hinc hcount
  refine ⟨exec_rxFeed_of_full hvalid hfull, ?_, ?_⟩
  · have hscan : scan s.cfg s.dstate s.rxbuf = ⟨.incomplete, [], .acc, s.rxbuf, 0⟩ := by
      rw [hacc]
      exact (scan_acc_readsTo s.cfg s.rxbuf).eq_of_incomplete hinc hcount
    exact ⟨_, exec_rxExtract_incomplete hvalid hscan, rfl, rfl⟩
  · obtain ⟨hparams, _⟩ := hinv
    exact ⟨_, rxFlushEmptiesTheReceiveSide s, rfl, exec_rxFeed_of_empty hparams hvalid rfl⟩

end Sys2Proof.Machine
end
